-- ==== Sys2Proof/Word.lean ====
section
/-! DEFINITION. The word types of the core and the address type (R4, R5): registers, status registers and addresses are
32-bit vectors, the unit of addressing is the 8-bit byte, a halfword has 16 bits. -/
namespace Sys2Proof

/-- A 32-bit register, status register or address (R4, R61). -/
abbrev Word := BitVec 32

/-- A halfword: the width of a THUMB instruction and of a halfword access (R67, R90). -/
abbrev Half := BitVec 16

/-- The unit of addressing (R61). -/
abbrev Byte := BitVec 8

end Sys2Proof
end

