-- ==== Sys2Proof/Config.lean ====
section
/-! DEFINITION. What an implementation fixes: the parameters of R4 with the values this model is built with, and the free
values of the spec (`draw(N)` of R10, the answers of a device of R60). -/
namespace Sys2Proof

/-- `PABT_THUMB_LR` (R4, R306): what R14 holds after a prefetch abort taken in THUMB state. -/
inductive PabtThumbLr where
  /-- CUR + 2, the source's wording (the default). -/
  | next
  /-- CUR + 4, the value of silicon. -/
  | plus4
deriving DecidableEq, Repr

/-- `MISALIGN` (R4, R65): what a word access at an address that is no multiple of 4 does. -/
inductive Misalign where
  /-- ARM7TDMI: a load rotates, a store ignores the low bits (the default). -/
  | rotate
  /-- the access is violation(Unpredictable). -/
  | refuse
deriving DecidableEq, Repr

/-- The parameters of R4. They stand in State as data that no step changes, so that a claim can be made for every setting
of them (DESIGN CHOICE, log 2). -/
structure Params where
  /-- the exception base address (R301) -/
  vectorBase  : Word
  /-- whether the decoder admits the ARMv4T instructions outside the tag list (R4, R110) -/
  v4tExtras   : Bool
  pabtThumbLr : PabtThumbLr
  misalign    : Misalign
  /-- the amount the cycle counter advances per step; R4: a positive natural -/
  cycleInc    : Nat
deriving DecidableEq, Repr

/-- The parameters of the machine after reset: the spec's defaults (R4), but with the ARMv4T instructions admitted
(DESIGN CHOICE, log 1; unsafe for a claim about the core with V4T_EXTRAS = false, which says so as a premise). -/
def Config.params : Params where
  vectorBase  := 0x00000000#32
  v4tExtras   := true
  pabtThumbLr := .next
  misalign    := .rotate
  cycleInc    := 1

/-- What a byte of memory that nothing has written reads as (R352 leaves memory to the platform; DESIGN CHOICE, unsafe,
log 3). -/
def Config.unlistedByte : Byte := 0x00#8

/-- `draw(1)` (R10): bit `which` drawn in step number `step`. Free: no body, so nothing can be proved of its value (log 10). -/
opaque Config.freeBit (step which : Nat) : Bool

/-- What a device answers in step number `step` to a read at `addr`, fetched as an instruction or not (R60, U25). Free
(log 5). -/
opaque Config.deviceValue (step : Nat) (fetch : Bool) (addr : Word) : Word

end Sys2Proof
end

