-- ==== Sys2Proof/Syntax.lean ====
section
/-! DEFINITION. The instructions as syntax: one constructor of Instr for every row of spec/opcode_table.json, in the table's
order. ARM constructors carry the condition field (R91); THUMB constructors begin with t. Register numbers are Fin types, so
an index outside 0 to 15 cannot be written (R23, R91). -/
namespace Sys2Proof

/-- Logical register numbers R0 to R15 (R22). -/
abbrev Reg := Fin 16

/-- The low registers R0 to R7 of a 3-bit THUMB register field (R251). -/
abbrev LowReg := Fin 8

/-- R13, the stack pointer (R22). -/
abbrev Reg.sp : Reg := 13
/-- R14, the link register (R22). -/
abbrev Reg.lr : Reg := 14
/-- R15, the program counter (R22). -/
abbrev Reg.pc : Reg := 15

/-- The sixteen condition codes, in the order of their codes 0000 to 1111 (R92). -/
inductive Cond where
  | eq | ne | cs | cc | mi | pl | vs | vc | hi | ls | ge | lt | gt | le | al | nv
deriving DecidableEq, Repr

/-- The shift types, in the order of their codes 00 to 11 (R96). -/
inductive ShiftType where
  | lsl | lsr | asr | ror
deriving DecidableEq, Repr

/-- Which status register MRS and MSR name: bit R (R97). -/
inductive Psr where
  | cpsr | spsr
deriving DecidableEq, Repr

/-- The instructions of the core: one constructor per row of spec/opcode_table.json. Field names follow the table; `sf` is
the S bit of data processing and multiply, `hat` the S bit ("^") of LDM and STM. -/
inductive Instr where
  /-- AND, format DPI, R154. -/
  | andI (c : Cond) (sf : Bool) (rn rd : Reg) (rot : BitVec 4) (imm8 : BitVec 8)
  /-- AND, format DPR, R154. -/
  | andR (c : Cond) (sf : Bool) (rn rd : Reg) (amount : BitVec 5) (ty : ShiftType) (rm : Reg)
  /-- AND, format DPS, R154. -/
  | andS (c : Cond) (sf : Bool) (rn rd rs : Reg) (ty : ShiftType) (rm : Reg)
  /-- EOR, format DPI, R155. -/
  | eorI (c : Cond) (sf : Bool) (rn rd : Reg) (rot : BitVec 4) (imm8 : BitVec 8)
  /-- EOR, format DPR, R155. -/
  | eorR (c : Cond) (sf : Bool) (rn rd : Reg) (amount : BitVec 5) (ty : ShiftType) (rm : Reg)
  /-- EOR, format DPS, R155. -/
  | eorS (c : Cond) (sf : Bool) (rn rd rs : Reg) (ty : ShiftType) (rm : Reg)
  /-- SUB, format DPI, R156. -/
  | subI (c : Cond) (sf : Bool) (rn rd : Reg) (rot : BitVec 4) (imm8 : BitVec 8)
  /-- SUB, format DPR, R156. -/
  | subR (c : Cond) (sf : Bool) (rn rd : Reg) (amount : BitVec 5) (ty : ShiftType) (rm : Reg)
  /-- SUB, format DPS, R156. -/
  | subS (c : Cond) (sf : Bool) (rn rd rs : Reg) (ty : ShiftType) (rm : Reg)
  /-- RSB, format DPI, R157. -/
  | rsbI (c : Cond) (sf : Bool) (rn rd : Reg) (rot : BitVec 4) (imm8 : BitVec 8)
  /-- RSB, format DPR, R157. -/
  | rsbR (c : Cond) (sf : Bool) (rn rd : Reg) (amount : BitVec 5) (ty : ShiftType) (rm : Reg)
  /-- RSB, format DPS, R157. -/
  | rsbS (c : Cond) (sf : Bool) (rn rd rs : Reg) (ty : ShiftType) (rm : Reg)
  /-- ADD, format DPI, R158. -/
  | addI (c : Cond) (sf : Bool) (rn rd : Reg) (rot : BitVec 4) (imm8 : BitVec 8)
  /-- ADD, format DPR, R158. -/
  | addR (c : Cond) (sf : Bool) (rn rd : Reg) (amount : BitVec 5) (ty : ShiftType) (rm : Reg)
  /-- ADD, format DPS, R158. -/
  | addS (c : Cond) (sf : Bool) (rn rd rs : Reg) (ty : ShiftType) (rm : Reg)
  /-- ADC, format DPI, R159. -/
  | adcI (c : Cond) (sf : Bool) (rn rd : Reg) (rot : BitVec 4) (imm8 : BitVec 8)
  /-- ADC, format DPR, R159. -/
  | adcR (c : Cond) (sf : Bool) (rn rd : Reg) (amount : BitVec 5) (ty : ShiftType) (rm : Reg)
  /-- ADC, format DPS, R159. -/
  | adcS (c : Cond) (sf : Bool) (rn rd rs : Reg) (ty : ShiftType) (rm : Reg)
  /-- SBC, format DPI, R160. -/
  | sbcI (c : Cond) (sf : Bool) (rn rd : Reg) (rot : BitVec 4) (imm8 : BitVec 8)
  /-- SBC, format DPR, R160. -/
  | sbcR (c : Cond) (sf : Bool) (rn rd : Reg) (amount : BitVec 5) (ty : ShiftType) (rm : Reg)
  /-- SBC, format DPS, R160. -/
  | sbcS (c : Cond) (sf : Bool) (rn rd rs : Reg) (ty : ShiftType) (rm : Reg)
  /-- RSC, format DPI, R161. -/
  | rscI (c : Cond) (sf : Bool) (rn rd : Reg) (rot : BitVec 4) (imm8 : BitVec 8)
  /-- RSC, format DPR, R161. -/
  | rscR (c : Cond) (sf : Bool) (rn rd : Reg) (amount : BitVec 5) (ty : ShiftType) (rm : Reg)
  /-- RSC, format DPS, R161. -/
  | rscS (c : Cond) (sf : Bool) (rn rd rs : Reg) (ty : ShiftType) (rm : Reg)
  /-- TST, format DPI, R162. -/
  | tstI (c : Cond) (rn : Reg) (rot : BitVec 4) (imm8 : BitVec 8)
  /-- TST, format DPR, R162. -/
  | tstR (c : Cond) (rn : Reg) (amount : BitVec 5) (ty : ShiftType) (rm : Reg)
  /-- TST, format DPS, R162. -/
  | tstS (c : Cond) (rn rs : Reg) (ty : ShiftType) (rm : Reg)
  /-- TEQ, format DPI, R163. -/
  | teqI (c : Cond) (rn : Reg) (rot : BitVec 4) (imm8 : BitVec 8)
  /-- TEQ, format DPR, R163. -/
  | teqR (c : Cond) (rn : Reg) (amount : BitVec 5) (ty : ShiftType) (rm : Reg)
  /-- TEQ, format DPS, R163. -/
  | teqS (c : Cond) (rn rs : Reg) (ty : ShiftType) (rm : Reg)
  /-- CMP, format DPI, R164. -/
  | cmpI (c : Cond) (rn : Reg) (rot : BitVec 4) (imm8 : BitVec 8)
  /-- CMP, format DPR, R164. -/
  | cmpR (c : Cond) (rn : Reg) (amount : BitVec 5) (ty : ShiftType) (rm : Reg)
  /-- CMP, format DPS, R164. -/
  | cmpS (c : Cond) (rn rs : Reg) (ty : ShiftType) (rm : Reg)
  /-- CMN, format DPI, R165. -/
  | cmnI (c : Cond) (rn : Reg) (rot : BitVec 4) (imm8 : BitVec 8)
  /-- CMN, format DPR, R165. -/
  | cmnR (c : Cond) (rn : Reg) (amount : BitVec 5) (ty : ShiftType) (rm : Reg)
  /-- CMN, format DPS, R165. -/
  | cmnS (c : Cond) (rn rs : Reg) (ty : ShiftType) (rm : Reg)
  /-- ORR, format DPI, R166. -/
  | orrI (c : Cond) (sf : Bool) (rn rd : Reg) (rot : BitVec 4) (imm8 : BitVec 8)
  /-- ORR, format DPR, R166. -/
  | orrR (c : Cond) (sf : Bool) (rn rd : Reg) (amount : BitVec 5) (ty : ShiftType) (rm : Reg)
  /-- ORR, format DPS, R166. -/
  | orrS (c : Cond) (sf : Bool) (rn rd rs : Reg) (ty : ShiftType) (rm : Reg)
  /-- MOV, format DPI, R167. -/
  | movI (c : Cond) (sf : Bool) (rd : Reg) (rot : BitVec 4) (imm8 : BitVec 8)
  /-- MOV, format DPR, R167. -/
  | movR (c : Cond) (sf : Bool) (rd : Reg) (amount : BitVec 5) (ty : ShiftType) (rm : Reg)
  /-- MOV, format DPS, R167. -/
  | movS (c : Cond) (sf : Bool) (rd rs : Reg) (ty : ShiftType) (rm : Reg)
  /-- BIC, format DPI, R168. -/
  | bicI (c : Cond) (sf : Bool) (rn rd : Reg) (rot : BitVec 4) (imm8 : BitVec 8)
  /-- BIC, format DPR, R168. -/
  | bicR (c : Cond) (sf : Bool) (rn rd : Reg) (amount : BitVec 5) (ty : ShiftType) (rm : Reg)
  /-- BIC, format DPS, R168. -/
  | bicS (c : Cond) (sf : Bool) (rn rd rs : Reg) (ty : ShiftType) (rm : Reg)
  /-- MVN, format DPI, R169. -/
  | mvnI (c : Cond) (sf : Bool) (rd : Reg) (rot : BitVec 4) (imm8 : BitVec 8)
  /-- MVN, format DPR, R169. -/
  | mvnR (c : Cond) (sf : Bool) (rd : Reg) (amount : BitVec 5) (ty : ShiftType) (rm : Reg)
  /-- MVN, format DPS, R169. -/
  | mvnS (c : Cond) (sf : Bool) (rd rs : Reg) (ty : ShiftType) (rm : Reg)
  /-- MRS, format PSR, R230. -/
  | mrs (c : Cond) (psr : Psr) (rd : Reg)
  /-- MSR, format PSR, R232. -/
  | msrR (c : Cond) (psr : Psr) (mask : BitVec 4) (rm : Reg)
  /-- MSR, format PSR, R232. -/
  | msrI (c : Cond) (psr : Psr) (mask rot : BitVec 4) (imm8 : BitVec 8)
  /-- BX, format BX, R222. -/
  | bx (c : Cond) (rm : Reg)
  /-- MUL, format MUL, R181. -/
  | mul (c : Cond) (sf : Bool) (rd rs rm : Reg)
  /-- MLA, format MUL, R182. -/
  | mla (c : Cond) (sf : Bool) (rd rn rs rm : Reg)
  /-- UMULL, format MLL, R183 (V4T_EXTRAS). -/
  | umull (c : Cond) (sf : Bool) (rdHi rdLo rs rm : Reg)
  /-- UMLAL, format MLL, R184 (V4T_EXTRAS). -/
  | umlal (c : Cond) (sf : Bool) (rdHi rdLo rs rm : Reg)
  /-- SMULL, format MLL, R185 (V4T_EXTRAS). -/
  | smull (c : Cond) (sf : Bool) (rdHi rdLo rs rm : Reg)
  /-- SMLAL, format MLL, R186 (V4T_EXTRAS). -/
  | smlal (c : Cond) (sf : Bool) (rdHi rdLo rs rm : Reg)
  /-- SWP, format SWP, R206. -/
  | swp (c : Cond) (rn rd rm : Reg)
  /-- SWPB, format SWP, R207. -/
  | swpb (c : Cond) (rn rd rm : Reg)
  /-- STRH, format HSR, R196 (V4T_EXTRAS). -/
  | strhR (c : Cond) (p u w : Bool) (rn rd rm : Reg)
  /-- STRH, format HSI, R196 (V4T_EXTRAS). -/
  | strhI (c : Cond) (p u w : Bool) (rn rd : Reg) (immHi immLo : BitVec 4)
  /-- LDRH, format HSR, R195 (V4T_EXTRAS). -/
  | ldrhR (c : Cond) (p u w : Bool) (rn rd rm : Reg)
  /-- LDRH, format HSI, R195 (V4T_EXTRAS). -/
  | ldrhI (c : Cond) (p u w : Bool) (rn rd : Reg) (immHi immLo : BitVec 4)
  /-- LDRSB, format HSR, R197 (V4T_EXTRAS). -/
  | ldrsbR (c : Cond) (p u w : Bool) (rn rd rm : Reg)
  /-- LDRSB, format HSI, R197 (V4T_EXTRAS). -/
  | ldrsbI (c : Cond) (p u w : Bool) (rn rd : Reg) (immHi immLo : BitVec 4)
  /-- LDRSH, format HSR, R198 (V4T_EXTRAS). -/
  | ldrshR (c : Cond) (p u w : Bool) (rn rd rm : Reg)
  /-- LDRSH, format HSI, R198 (V4T_EXTRAS). -/
  | ldrshI (c : Cond) (p u w : Bool) (rn rd : Reg) (immHi immLo : BitVec 4)
  /-- LDR, format SDT, R191. -/
  | ldrI (c : Cond) (p u w : Bool) (rn rd : Reg) (imm12 : BitVec 12)
  /-- LDR, format SDT, R191. -/
  | ldrR (c : Cond) (p u w : Bool) (rn rd : Reg) (amount : BitVec 5) (ty : ShiftType) (rm : Reg)
  /-- LDRB, format SDT, R193. -/
  | ldrbI (c : Cond) (p u w : Bool) (rn rd : Reg) (imm12 : BitVec 12)
  /-- LDRB, format SDT, R193. -/
  | ldrbR (c : Cond) (p u w : Bool) (rn rd : Reg) (amount : BitVec 5) (ty : ShiftType) (rm : Reg)
  /-- STR, format SDT, R192. -/
  | strI (c : Cond) (p u w : Bool) (rn rd : Reg) (imm12 : BitVec 12)
  /-- STR, format SDT, R192. -/
  | strR (c : Cond) (p u w : Bool) (rn rd : Reg) (amount : BitVec 5) (ty : ShiftType) (rm : Reg)
  /-- STRB, format SDT, R194. -/
  | strbI (c : Cond) (p u w : Bool) (rn rd : Reg) (imm12 : BitVec 12)
  /-- STRB, format SDT, R194. -/
  | strbR (c : Cond) (p u w : Bool) (rn rd : Reg) (amount : BitVec 5) (ty : ShiftType) (rm : Reg)
  /-- UNDEFINED, format UND, R103. -/
  | undefined (c : Cond) (hi : BitVec 20) (lo : BitVec 4)
  /-- LDM, format BDT, R203. -/
  | ldm (c : Cond) (p u hat w : Bool) (rn : Reg) (list : BitVec 16)
  /-- STM, format BDT, R204. -/
  | stm (c : Cond) (p u hat w : Bool) (rn : Reg) (list : BitVec 16)
  /-- B, format BRA, R220. -/
  | b (c : Cond) (offset24 : BitVec 24)
  /-- BL, format BRA, R221. -/
  | bl (c : Cond) (offset24 : BitVec 24)
  /-- LDC, format CDT, R245. -/
  | ldc (c : Cond) (p u n w : Bool) (rn : Reg) (crd cp : BitVec 4) (offset8 : BitVec 8)
  /-- STC, format CDT, R246. -/
  | stc (c : Cond) (p u n w : Bool) (rn : Reg) (crd cp : BitVec 4) (offset8 : BitVec 8)
  /-- CDP, format CDO, R242. -/
  | cdp (c : Cond) (opc1 crn crd cp : BitVec 4) (opc2 : BitVec 3) (crm : BitVec 4)
  /-- MRC, format CRT, R244. -/
  | mrc (c : Cond) (opc1 : BitVec 3) (crn : BitVec 4) (rd : Reg) (cp : BitVec 4) (opc2 : BitVec 3) (crm : BitVec 4)
  /-- MCR, format CRT, R243. -/
  | mcr (c : Cond) (opc1 : BitVec 3) (crn : BitVec 4) (rd : Reg) (cp : BitVec 4) (opc2 : BitVec 3) (crm : BitVec 4)
  /-- SWI, format SWI, R233. -/
  | swi (c : Cond) (comment24 : BitVec 24)
  /-- LSL, format T1, R252. -/
  | tLslI (offset5 : BitVec 5) (rs rd : LowReg)
  /-- LSR, format T1, R252. -/
  | tLsrI (offset5 : BitVec 5) (rs rd : LowReg)
  /-- ASR, format T1, R252. -/
  | tAsrI (offset5 : BitVec 5) (rs rd : LowReg)
  /-- ADD, format T2, R253. -/
  | tAddR (rn rs rd : LowReg)
  /-- SUB, format T2, R253. -/
  | tSubR (rn rs rd : LowReg)
  /-- ADD, format T2, R253. -/
  | tAddI3 (imm3 : BitVec 3) (rs rd : LowReg)
  /-- SUB, format T2, R253. -/
  | tSubI3 (imm3 : BitVec 3) (rs rd : LowReg)
  /-- MOV, format T3, R254. -/
  | tMovI (rd : LowReg) (imm8 : BitVec 8)
  /-- CMP, format T3, R254. -/
  | tCmpI (rd : LowReg) (imm8 : BitVec 8)
  /-- ADD, format T3, R254. -/
  | tAddI8 (rd : LowReg) (imm8 : BitVec 8)
  /-- SUB, format T3, R254. -/
  | tSubI8 (rd : LowReg) (imm8 : BitVec 8)
  /-- AND, format T4, R255. -/
  | tAnd (rs rd : LowReg)
  /-- EOR, format T4, R255. -/
  | tEor (rs rd : LowReg)
  /-- LSL, format T4, R255. -/
  | tLslR (rs rd : LowReg)
  /-- LSR, format T4, R255. -/
  | tLsrR (rs rd : LowReg)
  /-- ASR, format T4, R255. -/
  | tAsrR (rs rd : LowReg)
  /-- ADC, format T4, R255. -/
  | tAdc (rs rd : LowReg)
  /-- SBC, format T4, R255. -/
  | tSbc (rs rd : LowReg)
  /-- ROR, format T4, R255. -/
  | tRorR (rs rd : LowReg)
  /-- TST, format T4, R255. -/
  | tTst (rs rd : LowReg)
  /-- NEG, format T4, R255. -/
  | tNeg (rs rd : LowReg)
  /-- CMP, format T4, R255. -/
  | tCmpR (rs rd : LowReg)
  /-- CMN, format T4, R255. -/
  | tCmn (rs rd : LowReg)
  /-- ORR, format T4, R255. -/
  | tOrr (rs rd : LowReg)
  /-- MUL, format T4, R255. -/
  | tMul (rs rd : LowReg)
  /-- BIC, format T4, R255. -/
  | tBic (rs rd : LowReg)
  /-- MVN, format T4, R255. -/
  | tMvn (rs rd : LowReg)
  /-- ADD, format T5, R256. -/
  | tAddHi (rs rd : Reg)
  /-- CMP, format T5, R256. -/
  | tCmpHi (rs rd : Reg)
  /-- MOV, format T5, R256. -/
  | tMovHi (rs rd : Reg)
  /-- BX, format T5, R256. -/
  | tBx (rs : Reg)
  /-- LDR, format T6, R257. -/
  | tLdrPc (rd : LowReg) (word8 : BitVec 8)
  /-- STR, format T7, R258. -/
  | tStrR (ro rb rd : LowReg)
  /-- STRB, format T7, R258. -/
  | tStrbR (ro rb rd : LowReg)
  /-- LDR, format T7, R258. -/
  | tLdrR (ro rb rd : LowReg)
  /-- LDRB, format T7, R258. -/
  | tLdrbR (ro rb rd : LowReg)
  /-- STRH, format T8, R259 (V4T_EXTRAS). -/
  | tStrhR (ro rb rd : LowReg)
  /-- LDSB, format T8, R259 (V4T_EXTRAS). -/
  | tLdsbR (ro rb rd : LowReg)
  /-- LDRH, format T8, R259 (V4T_EXTRAS). -/
  | tLdrhR (ro rb rd : LowReg)
  /-- LDSH, format T8, R259 (V4T_EXTRAS). -/
  | tLdshR (ro rb rd : LowReg)
  /-- STR, format T9, R260. -/
  | tStrI (offset5 : BitVec 5) (rb rd : LowReg)
  /-- LDR, format T9, R260. -/
  | tLdrI (offset5 : BitVec 5) (rb rd : LowReg)
  /-- STRB, format T9, R260. -/
  | tStrbI (offset5 : BitVec 5) (rb rd : LowReg)
  /-- LDRB, format T9, R260. -/
  | tLdrbI (offset5 : BitVec 5) (rb rd : LowReg)
  /-- STRH, format T10, R261 (V4T_EXTRAS). -/
  | tStrhI (offset5 : BitVec 5) (rb rd : LowReg)
  /-- LDRH, format T10, R261 (V4T_EXTRAS). -/
  | tLdrhI (offset5 : BitVec 5) (rb rd : LowReg)
  /-- STR, format T11, R262. -/
  | tStrSp (rd : LowReg) (word8 : BitVec 8)
  /-- LDR, format T11, R262. -/
  | tLdrSp (rd : LowReg) (word8 : BitVec 8)
  /-- ADD, format T12, R263. -/
  | tAddPc (rd : LowReg) (word8 : BitVec 8)
  /-- ADD, format T12, R263. -/
  | tAddSp (rd : LowReg) (word8 : BitVec 8)
  /-- ADD, format T13, R264. -/
  | tSpAdd (sword7 : BitVec 7)
  /-- SUB, format T13, R264. -/
  | tSpSub (sword7 : BitVec 7)
  /-- PUSH, format T14, R265. -/
  | tPush (r : Bool) (rlist : BitVec 8)
  /-- POP, format T14, R265. -/
  | tPop (r : Bool) (rlist : BitVec 8)
  /-- STMIA, format T15, R266. -/
  | tStmia (rb : LowReg) (rlist : BitVec 8)
  /-- LDMIA, format T15, R266. -/
  | tLdmia (rb : LowReg) (rlist : BitVec 8)
  /-- BEQ, format T16, R267. -/
  | tBeq (soffset8 : BitVec 8)
  /-- BNE, format T16, R267. -/
  | tBne (soffset8 : BitVec 8)
  /-- BCS, format T16, R267. -/
  | tBcs (soffset8 : BitVec 8)
  /-- BCC, format T16, R267. -/
  | tBcc (soffset8 : BitVec 8)
  /-- BMI, format T16, R267. -/
  | tBmi (soffset8 : BitVec 8)
  /-- BPL, format T16, R267. -/
  | tBpl (soffset8 : BitVec 8)
  /-- BVS, format T16, R267. -/
  | tBvs (soffset8 : BitVec 8)
  /-- BVC, format T16, R267. -/
  | tBvc (soffset8 : BitVec 8)
  /-- BHI, format T16, R267. -/
  | tBhi (soffset8 : BitVec 8)
  /-- BLS, format T16, R267. -/
  | tBls (soffset8 : BitVec 8)
  /-- BGE, format T16, R267. -/
  | tBge (soffset8 : BitVec 8)
  /-- BLT, format T16, R267. -/
  | tBlt (soffset8 : BitVec 8)
  /-- BGT, format T16, R267. -/
  | tBgt (soffset8 : BitVec 8)
  /-- BLE, format T16, R267. -/
  | tBle (soffset8 : BitVec 8)
  /-- UNDEFINED, format T16, R267. -/
  | tUndefined (imm8 : BitVec 8)
  /-- SWI, format T17, R268. -/
  | tSwi (value8 : BitVec 8)
  /-- B, format T18, R269. -/
  | tB (offset11 : BitVec 11)
  /-- BL, format T19, R270. -/
  | tBlFirst (offset11 : BitVec 11)
  /-- BL, format T19, R270. -/
  | tBlSecond (offset11 : BitVec 11)
deriving DecidableEq, Repr

end Sys2Proof
end

