-- ==== Sys2Proof/WellFormed.lean ====
section
/-! DEFINITION. Which terms of Instr are instructions of the core: the types of the fields leave no operand out of range
(R91), so the one check is that an instruction outside the source's tag list is admitted only under V4T_EXTRAS (R4, R110).
Operand combinations that the architecture calls UNPREDICTABLE are no decoder matter (R112): they are well-formed, and the
meaning says what happens. -/
namespace Sys2Proof

/-- The rows marked "requires": "V4T_EXTRAS": the instructions outside the 34 tags (R4, R101, R110, R259, R261). -/
def Instr.needsExtras : Instr → Bool
  -- multiply long (R183 to R186)
  | .umull .. | .umlal .. | .smull .. | .smlal .. => true
  -- halfword and signed transfer (R195 to R198)
  | .strhR .. | .strhI .. | .ldrhR .. | .ldrhI .. | .ldrsbR .. | .ldrsbI .. | .ldrshR .. | .ldrshI .. => true
  -- THUMB format 8 (R259)
  | .tStrhR .. | .tLdsbR .. | .tLdrhR .. | .tLdshR .. => true
  -- THUMB format 10 (R261)
  | .tStrhI .. | .tLdrhI .. => true
  -- data processing (R150 to R169)
  | .andI .. | .andR .. | .andS .. | .eorI .. | .eorR .. | .eorS .. | .subI .. | .subR .. | .subS ..
  | .rsbI .. | .rsbR .. | .rsbS .. | .addI .. | .addR .. | .addS .. | .adcI .. | .adcR .. | .adcS ..
  | .sbcI .. | .sbcR .. | .sbcS .. | .rscI .. | .rscR .. | .rscS .. | .tstI .. | .tstR .. | .tstS ..
  | .teqI .. | .teqR .. | .teqS .. | .cmpI .. | .cmpR .. | .cmpS .. | .cmnI .. | .cmnR .. | .cmnS ..
  | .orrI .. | .orrR .. | .orrS .. | .movI .. | .movR .. | .movS .. | .bicI .. | .bicR .. | .bicS ..
  | .mvnI .. | .mvnR .. | .mvnS .. => false
  -- status register transfer, BX (R230 to R232, R222)
  | .mrs .. | .msrR .. | .msrI .. | .bx .. => false
  -- multiply (R181, R182)
  | .mul .. | .mla .. => false
  -- swap (R206, R207)
  | .swp .. | .swpb .. => false
  -- single transfer (R190 to R194, R200)
  | .ldrI .. | .ldrR .. | .ldrbI .. | .ldrbR .. | .strI .. | .strR .. | .strbI .. | .strbR .. => false
  -- undefined space, block transfer, branch (R103, R203, R204, R220, R221)
  | .undefined .. | .ldm .. | .stm .. | .b .. | .bl .. => false
  -- coprocessor, SWI (R242 to R246, R233)
  | .ldc .. | .stc .. | .cdp .. | .mrc .. | .mcr .. | .swi .. => false
  -- THUMB formats 1 to 7
  | .tLslI .. | .tLsrI .. | .tAsrI .. | .tAddR .. | .tSubR .. | .tAddI3 .. | .tSubI3 .. | .tMovI ..
  | .tCmpI .. | .tAddI8 .. | .tSubI8 .. | .tAnd .. | .tEor .. | .tLslR .. | .tLsrR .. | .tAsrR .. | .tAdc ..
  | .tSbc .. | .tRorR .. | .tTst .. | .tNeg .. | .tCmpR .. | .tCmn .. | .tOrr .. | .tMul .. | .tBic ..
  | .tMvn .. | .tAddHi .. | .tCmpHi .. | .tMovHi .. | .tBx .. | .tLdrPc .. | .tStrR .. | .tStrbR ..
  | .tLdrR .. | .tLdrbR .. => false
  -- THUMB format 9
  | .tStrI .. | .tLdrI .. | .tStrbI .. | .tLdrbI .. => false
  -- THUMB formats 11 to 19
  | .tStrSp .. | .tLdrSp .. | .tAddPc .. | .tAddSp .. | .tSpAdd .. | .tSpSub .. | .tPush .. | .tPop ..
  | .tStmia .. | .tLdmia .. | .tBeq .. | .tBne .. | .tBcs .. | .tBcc .. | .tBmi .. | .tBpl .. | .tBvs ..
  | .tBvc .. | .tBhi .. | .tBls .. | .tBge .. | .tBlt .. | .tBgt .. | .tBle .. | .tUndefined .. | .tSwi ..
  | .tB .. | .tBlFirst .. | .tBlSecond .. => false

/-- `i` is an instruction of the core whose parameter V4T_EXTRAS is `extras` (R4, R110). -/
def Instr.wellFormed (extras : Bool) (i : Instr) : Bool :=
  extras || !i.needsExtras

/-- Whether `i` is a THUMB instruction, a 16-bit halfword, rather than an ARM instruction, a 32-bit word (R90). -/
def Instr.isThumb : Instr → Bool
  -- the ARM rows of the table
  | .andI .. | .andR .. | .andS .. | .eorI .. | .eorR .. | .eorS .. | .subI .. | .subR .. | .subS ..
  | .rsbI .. | .rsbR .. | .rsbS .. | .addI .. | .addR .. | .addS .. | .adcI .. | .adcR .. | .adcS ..
  | .sbcI .. | .sbcR .. | .sbcS .. | .rscI .. | .rscR .. | .rscS .. | .tstI .. | .tstR .. | .tstS ..
  | .teqI .. | .teqR .. | .teqS .. | .cmpI .. | .cmpR .. | .cmpS .. | .cmnI .. | .cmnR .. | .cmnS ..
  | .orrI .. | .orrR .. | .orrS .. | .movI .. | .movR .. | .movS .. | .bicI .. | .bicR .. | .bicS ..
  | .mvnI .. | .mvnR .. | .mvnS .. | .mrs .. | .msrR .. | .msrI .. | .bx .. | .mul .. | .mla .. | .umull ..
  | .umlal .. | .smull .. | .smlal .. | .swp .. | .swpb .. | .strhR .. | .strhI .. | .ldrhR .. | .ldrhI ..
  | .ldrsbR .. | .ldrsbI .. | .ldrshR .. | .ldrshI .. | .ldrI .. | .ldrR .. | .ldrbI .. | .ldrbR ..
  | .strI .. | .strR .. | .strbI .. | .strbR .. | .undefined .. | .ldm .. | .stm .. | .b .. | .bl ..
  | .ldc .. | .stc .. | .cdp .. | .mrc .. | .mcr .. | .swi .. => false
  -- the THUMB rows
  | .tLslI .. | .tLsrI .. | .tAsrI .. | .tAddR .. | .tSubR .. | .tAddI3 .. | .tSubI3 .. | .tMovI ..
  | .tCmpI .. | .tAddI8 .. | .tSubI8 .. | .tAnd .. | .tEor .. | .tLslR .. | .tLsrR .. | .tAsrR .. | .tAdc ..
  | .tSbc .. | .tRorR .. | .tTst .. | .tNeg .. | .tCmpR .. | .tCmn .. | .tOrr .. | .tMul .. | .tBic ..
  | .tMvn .. | .tAddHi .. | .tCmpHi .. | .tMovHi .. | .tBx .. | .tLdrPc .. | .tStrR .. | .tStrbR ..
  | .tLdrR .. | .tLdrbR .. | .tStrhR .. | .tLdsbR .. | .tLdrhR .. | .tLdshR .. | .tStrI .. | .tLdrI ..
  | .tStrbI .. | .tLdrbI .. | .tStrhI .. | .tLdrhI .. | .tStrSp .. | .tLdrSp .. | .tAddPc .. | .tAddSp ..
  | .tSpAdd .. | .tSpSub .. | .tPush .. | .tPop .. | .tStmia .. | .tLdmia .. | .tBeq .. | .tBne .. | .tBcs ..
  | .tBcc .. | .tBmi .. | .tBpl .. | .tBvs .. | .tBvc .. | .tBhi .. | .tBls .. | .tBge .. | .tBlt ..
  | .tBgt .. | .tBle .. | .tUndefined .. | .tSwi .. | .tB .. | .tBlFirst .. | .tBlSecond .. => true

end Sys2Proof
end

