-- ==== Sys2Proof/Decode.lean ====
section
/-! DEFINITION. Decoding and encoding (R90 to R113, R250): the rows of spec/opcode_table.json with their mask and match, the
two decode functions DecodeARM and DecodeTHUMB as the unique row that matches, decoding from bytes, and the encoder written
from the same table. -/
namespace Sys2Proof

/-- Why bits are no instruction. All of them are the spec's NoMatch (R110, R111): the step is violation(NoMatchingOpcode). -/
inductive DecodeError where
  /-- no row of the table matches -/
  | noMatch
  /-- the only row that matches is marked V4T_EXTRAS and the parameter is false -/
  | needsExtras
  /-- fewer bytes than one instruction -/
  | truncated
deriving DecidableEq, Repr

/-- An instruction's bits: one word in ARM state, one halfword in THUMB state (R90). -/
inductive Code where
  | arm (w : Word)
  | thumb (h : Half)
deriving DecidableEq, Repr

/-! ### Fields (R91, R92, R96, R97, R256) -/

/-- The condition of a code (R92). -/
def Cond.ofBits (b : BitVec 4) : Cond :=
  match b.toNat with
  | 0 => .eq | 1 => .ne | 2 => .cs | 3 => .cc | 4 => .mi | 5 => .pl | 6 => .vs | 7 => .vc
  | 8 => .hi | 9 => .ls | 10 => .ge | 11 => .lt | 12 => .gt | 13 => .le | 14 => .al | _ => .nv

/-- The code of a condition (R92). -/
def Cond.toBits : Cond → BitVec 4
  | .eq => 0b0000#4 | .ne => 0b0001#4 | .cs => 0b0010#4 | .cc => 0b0011#4
  | .mi => 0b0100#4 | .pl => 0b0101#4 | .vs => 0b0110#4 | .vc => 0b0111#4
  | .hi => 0b1000#4 | .ls => 0b1001#4 | .ge => 0b1010#4 | .lt => 0b1011#4
  | .gt => 0b1100#4 | .le => 0b1101#4 | .al => 0b1110#4 | .nv => 0b1111#4

/-- The shift type of a code (R96). -/
def ShiftType.ofBits (b : BitVec 2) : ShiftType :=
  match b.toNat with
  | 0 => .lsl | 1 => .lsr | 2 => .asr | _ => .ror

/-- The code of a shift type (R96). -/
def ShiftType.toBits : ShiftType → BitVec 2
  | .lsl => 0b00#2 | .lsr => 0b01#2 | .asr => 0b10#2 | .ror => 0b11#2

/-- Bit R: 0 = CPSR, 1 = SPSR (R97). -/
def Psr.ofBit (b : Bool) : Psr := if b then .spsr else .cpsr

/-- Bit R of a status register name (R97). -/
def Psr.toBits : Psr → BitVec 1
  | .cpsr => 0b0#1 | .spsr => 0b1#1

def condAt (w : Word) (lo : Nat) : Cond := Cond.ofBits (w.extractLsb' lo 4)
def regAt (w : Word) (lo : Nat) : Reg := (w.extractLsb' lo 4).toFin
def shiftAt (w : Word) (lo : Nat) : ShiftType := ShiftType.ofBits (w.extractLsb' lo 2)
def psrAt (w : Word) (lo : Nat) : Psr := Psr.ofBit (w.getLsbD lo)
def lowAt (w : Half) (lo : Nat) : LowReg := (w.extractLsb' lo 3).toFin
/-- The register number H : R of THUMB format 5, with H at bit `h` and R at bits `lo+2 : lo` (R256). -/
def highAt (w : Half) (h lo : Nat) : Reg := (w.extractLsb' h 1 ++ w.extractLsb' lo 3).toFin

def regBits (r : Reg) : BitVec 4 := BitVec.ofFin r
def lowRegBits (r : LowReg) : BitVec 3 := BitVec.ofFin r
/-- Bit 3 of a register number: H1 or H2 of THUMB format 5 (R256). -/
def highBit (r : Reg) : BitVec 1 := (regBits r).extractLsb' 3 1
/-- Bits 2:0 of a register number: the 3-bit field of THUMB format 5 (R256). -/
def lowBits (r : Reg) : BitVec 3 := (regBits r).extractLsb' 0 3

/-! ### The table -/

/-- One ARM row of spec/opcode_table.json: it matches w when `w AND mask = bits` (R110). -/
structure ArmRow where
  mask   : Word
  bits   : Word
  extras : Bool
  build  : Word → Instr

/-- One THUMB row of spec/opcode_table.json (R113, R250). -/
structure ThumbRow where
  mask   : Half
  bits   : Half
  extras : Bool
  build  : Half → Instr

/-- Rows of the table: data processing AND to ADC. -/
def armRowsAnd : List ArmRow := [
  /- AND DPI -/ ⟨0x0FE00000#32, 0x02000000#32, false, fun w => .andI (condAt w 28) (w.getLsbD 20) (regAt w 16) (regAt w 12) (w.extractLsb' 8 4) (w.extractLsb' 0 8)⟩,
  /- AND DPR -/ ⟨0x0FE00010#32, 0x00000000#32, false, fun w => .andR (condAt w 28) (w.getLsbD 20) (regAt w 16) (regAt w 12) (w.extractLsb' 7 5) (shiftAt w 5) (regAt w 0)⟩,
  /- AND DPS -/ ⟨0x0FE00090#32, 0x00000010#32, false, fun w => .andS (condAt w 28) (w.getLsbD 20) (regAt w 16) (regAt w 12) (regAt w 8) (shiftAt w 5) (regAt w 0)⟩,
  /- EOR DPI -/ ⟨0x0FE00000#32, 0x02200000#32, false, fun w => .eorI (condAt w 28) (w.getLsbD 20) (regAt w 16) (regAt w 12) (w.extractLsb' 8 4) (w.extractLsb' 0 8)⟩,
  /- EOR DPR -/ ⟨0x0FE00010#32, 0x00200000#32, false, fun w => .eorR (condAt w 28) (w.getLsbD 20) (regAt w 16) (regAt w 12) (w.extractLsb' 7 5) (shiftAt w 5) (regAt w 0)⟩,
  /- EOR DPS -/ ⟨0x0FE00090#32, 0x00200010#32, false, fun w => .eorS (condAt w 28) (w.getLsbD 20) (regAt w 16) (regAt w 12) (regAt w 8) (shiftAt w 5) (regAt w 0)⟩,
  /- SUB DPI -/ ⟨0x0FE00000#32, 0x02400000#32, false, fun w => .subI (condAt w 28) (w.getLsbD 20) (regAt w 16) (regAt w 12) (w.extractLsb' 8 4) (w.extractLsb' 0 8)⟩,
  /- SUB DPR -/ ⟨0x0FE00010#32, 0x00400000#32, false, fun w => .subR (condAt w 28) (w.getLsbD 20) (regAt w 16) (regAt w 12) (w.extractLsb' 7 5) (shiftAt w 5) (regAt w 0)⟩,
  /- SUB DPS -/ ⟨0x0FE00090#32, 0x00400010#32, false, fun w => .subS (condAt w 28) (w.getLsbD 20) (regAt w 16) (regAt w 12) (regAt w 8) (shiftAt w 5) (regAt w 0)⟩,
  /- RSB DPI -/ ⟨0x0FE00000#32, 0x02600000#32, false, fun w => .rsbI (condAt w 28) (w.getLsbD 20) (regAt w 16) (regAt w 12) (w.extractLsb' 8 4) (w.extractLsb' 0 8)⟩,
  /- RSB DPR -/ ⟨0x0FE00010#32, 0x00600000#32, false, fun w => .rsbR (condAt w 28) (w.getLsbD 20) (regAt w 16) (regAt w 12) (w.extractLsb' 7 5) (shiftAt w 5) (regAt w 0)⟩,
  /- RSB DPS -/ ⟨0x0FE00090#32, 0x00600010#32, false, fun w => .rsbS (condAt w 28) (w.getLsbD 20) (regAt w 16) (regAt w 12) (regAt w 8) (shiftAt w 5) (regAt w 0)⟩,
  /- ADD DPI -/ ⟨0x0FE00000#32, 0x02800000#32, false, fun w => .addI (condAt w 28) (w.getLsbD 20) (regAt w 16) (regAt w 12) (w.extractLsb' 8 4) (w.extractLsb' 0 8)⟩,
  /- ADD DPR -/ ⟨0x0FE00010#32, 0x00800000#32, false, fun w => .addR (condAt w 28) (w.getLsbD 20) (regAt w 16) (regAt w 12) (w.extractLsb' 7 5) (shiftAt w 5) (regAt w 0)⟩,
  /- ADD DPS -/ ⟨0x0FE00090#32, 0x00800010#32, false, fun w => .addS (condAt w 28) (w.getLsbD 20) (regAt w 16) (regAt w 12) (regAt w 8) (shiftAt w 5) (regAt w 0)⟩,
  /- ADC DPI -/ ⟨0x0FE00000#32, 0x02A00000#32, false, fun w => .adcI (condAt w 28) (w.getLsbD 20) (regAt w 16) (regAt w 12) (w.extractLsb' 8 4) (w.extractLsb' 0 8)⟩,
  /- ADC DPR -/ ⟨0x0FE00010#32, 0x00A00000#32, false, fun w => .adcR (condAt w 28) (w.getLsbD 20) (regAt w 16) (regAt w 12) (w.extractLsb' 7 5) (shiftAt w 5) (regAt w 0)⟩,
  /- ADC DPS -/ ⟨0x0FE00090#32, 0x00A00010#32, false, fun w => .adcS (condAt w 28) (w.getLsbD 20) (regAt w 16) (regAt w 12) (regAt w 8) (shiftAt w 5) (regAt w 0)⟩]

/-- Rows of the table: data processing SBC to CMN. -/
def armRowsSbc : List ArmRow := [
  /- SBC DPI -/ ⟨0x0FE00000#32, 0x02C00000#32, false, fun w => .sbcI (condAt w 28) (w.getLsbD 20) (regAt w 16) (regAt w 12) (w.extractLsb' 8 4) (w.extractLsb' 0 8)⟩,
  /- SBC DPR -/ ⟨0x0FE00010#32, 0x00C00000#32, false, fun w => .sbcR (condAt w 28) (w.getLsbD 20) (regAt w 16) (regAt w 12) (w.extractLsb' 7 5) (shiftAt w 5) (regAt w 0)⟩,
  /- SBC DPS -/ ⟨0x0FE00090#32, 0x00C00010#32, false, fun w => .sbcS (condAt w 28) (w.getLsbD 20) (regAt w 16) (regAt w 12) (regAt w 8) (shiftAt w 5) (regAt w 0)⟩,
  /- RSC DPI -/ ⟨0x0FE00000#32, 0x02E00000#32, false, fun w => .rscI (condAt w 28) (w.getLsbD 20) (regAt w 16) (regAt w 12) (w.extractLsb' 8 4) (w.extractLsb' 0 8)⟩,
  /- RSC DPR -/ ⟨0x0FE00010#32, 0x00E00000#32, false, fun w => .rscR (condAt w 28) (w.getLsbD 20) (regAt w 16) (regAt w 12) (w.extractLsb' 7 5) (shiftAt w 5) (regAt w 0)⟩,
  /- RSC DPS -/ ⟨0x0FE00090#32, 0x00E00010#32, false, fun w => .rscS (condAt w 28) (w.getLsbD 20) (regAt w 16) (regAt w 12) (regAt w 8) (shiftAt w 5) (regAt w 0)⟩,
  /- TST DPI -/ ⟨0x0FF0F000#32, 0x03100000#32, false, fun w => .tstI (condAt w 28) (regAt w 16) (w.extractLsb' 8 4) (w.extractLsb' 0 8)⟩,
  /- TST DPR -/ ⟨0x0FF0F010#32, 0x01100000#32, false, fun w => .tstR (condAt w 28) (regAt w 16) (w.extractLsb' 7 5) (shiftAt w 5) (regAt w 0)⟩,
  /- TST DPS -/ ⟨0x0FF0F090#32, 0x01100010#32, false, fun w => .tstS (condAt w 28) (regAt w 16) (regAt w 8) (shiftAt w 5) (regAt w 0)⟩,
  /- TEQ DPI -/ ⟨0x0FF0F000#32, 0x03300000#32, false, fun w => .teqI (condAt w 28) (regAt w 16) (w.extractLsb' 8 4) (w.extractLsb' 0 8)⟩,
  /- TEQ DPR -/ ⟨0x0FF0F010#32, 0x01300000#32, false, fun w => .teqR (condAt w 28) (regAt w 16) (w.extractLsb' 7 5) (shiftAt w 5) (regAt w 0)⟩,
  /- TEQ DPS -/ ⟨0x0FF0F090#32, 0x01300010#32, false, fun w => .teqS (condAt w 28) (regAt w 16) (regAt w 8) (shiftAt w 5) (regAt w 0)⟩,
  /- CMP DPI -/ ⟨0x0FF0F000#32, 0x03500000#32, false, fun w => .cmpI (condAt w 28) (regAt w 16) (w.extractLsb' 8 4) (w.extractLsb' 0 8)⟩,
  /- CMP DPR -/ ⟨0x0FF0F010#32, 0x01500000#32, false, fun w => .cmpR (condAt w 28) (regAt w 16) (w.extractLsb' 7 5) (shiftAt w 5) (regAt w 0)⟩,
  /- CMP DPS -/ ⟨0x0FF0F090#32, 0x01500010#32, false, fun w => .cmpS (condAt w 28) (regAt w 16) (regAt w 8) (shiftAt w 5) (regAt w 0)⟩,
  /- CMN DPI -/ ⟨0x0FF0F000#32, 0x03700000#32, false, fun w => .cmnI (condAt w 28) (regAt w 16) (w.extractLsb' 8 4) (w.extractLsb' 0 8)⟩,
  /- CMN DPR -/ ⟨0x0FF0F010#32, 0x01700000#32, false, fun w => .cmnR (condAt w 28) (regAt w 16) (w.extractLsb' 7 5) (shiftAt w 5) (regAt w 0)⟩,
  /- CMN DPS -/ ⟨0x0FF0F090#32, 0x01700010#32, false, fun w => .cmnS (condAt w 28) (regAt w 16) (regAt w 8) (shiftAt w 5) (regAt w 0)⟩]

/-- Rows of the table: data processing ORR to MVN. -/
def armRowsOrr : List ArmRow := [
  /- ORR DPI -/ ⟨0x0FE00000#32, 0x03800000#32, false, fun w => .orrI (condAt w 28) (w.getLsbD 20) (regAt w 16) (regAt w 12) (w.extractLsb' 8 4) (w.extractLsb' 0 8)⟩,
  /- ORR DPR -/ ⟨0x0FE00010#32, 0x01800000#32, false, fun w => .orrR (condAt w 28) (w.getLsbD 20) (regAt w 16) (regAt w 12) (w.extractLsb' 7 5) (shiftAt w 5) (regAt w 0)⟩,
  /- ORR DPS -/ ⟨0x0FE00090#32, 0x01800010#32, false, fun w => .orrS (condAt w 28) (w.getLsbD 20) (regAt w 16) (regAt w 12) (regAt w 8) (shiftAt w 5) (regAt w 0)⟩,
  /- MOV DPI -/ ⟨0x0FEF0000#32, 0x03A00000#32, false, fun w => .movI (condAt w 28) (w.getLsbD 20) (regAt w 12) (w.extractLsb' 8 4) (w.extractLsb' 0 8)⟩,
  /- MOV DPR -/ ⟨0x0FEF0010#32, 0x01A00000#32, false, fun w => .movR (condAt w 28) (w.getLsbD 20) (regAt w 12) (w.extractLsb' 7 5) (shiftAt w 5) (regAt w 0)⟩,
  /- MOV DPS -/ ⟨0x0FEF0090#32, 0x01A00010#32, false, fun w => .movS (condAt w 28) (w.getLsbD 20) (regAt w 12) (regAt w 8) (shiftAt w 5) (regAt w 0)⟩,
  /- BIC DPI -/ ⟨0x0FE00000#32, 0x03C00000#32, false, fun w => .bicI (condAt w 28) (w.getLsbD 20) (regAt w 16) (regAt w 12) (w.extractLsb' 8 4) (w.extractLsb' 0 8)⟩,
  /- BIC DPR -/ ⟨0x0FE00010#32, 0x01C00000#32, false, fun w => .bicR (condAt w 28) (w.getLsbD 20) (regAt w 16) (regAt w 12) (w.extractLsb' 7 5) (shiftAt w 5) (regAt w 0)⟩,
  /- BIC DPS -/ ⟨0x0FE00090#32, 0x01C00010#32, false, fun w => .bicS (condAt w 28) (w.getLsbD 20) (regAt w 16) (regAt w 12) (regAt w 8) (shiftAt w 5) (regAt w 0)⟩,
  /- MVN DPI -/ ⟨0x0FEF0000#32, 0x03E00000#32, false, fun w => .mvnI (condAt w 28) (w.getLsbD 20) (regAt w 12) (w.extractLsb' 8 4) (w.extractLsb' 0 8)⟩,
  /- MVN DPR -/ ⟨0x0FEF0010#32, 0x01E00000#32, false, fun w => .mvnR (condAt w 28) (w.getLsbD 20) (regAt w 12) (w.extractLsb' 7 5) (shiftAt w 5) (regAt w 0)⟩,
  /- MVN DPS -/ ⟨0x0FEF0090#32, 0x01E00010#32, false, fun w => .mvnS (condAt w 28) (w.getLsbD 20) (regAt w 12) (regAt w 8) (shiftAt w 5) (regAt w 0)⟩]

/-- Rows of the table: status register transfer, BX, multiply, swap, halfword transfer. -/
def armRowsMisc : List ArmRow := [
  /- MRS PSR -/ ⟨0x0FBF0FFF#32, 0x010F0000#32, false, fun w => .mrs (condAt w 28) (psrAt w 22) (regAt w 12)⟩,
  /- MSR PSR -/ ⟨0x0FB0FFF0#32, 0x0120F000#32, false, fun w => .msrR (condAt w 28) (psrAt w 22) (w.extractLsb' 16 4) (regAt w 0)⟩,
  /- MSR PSR -/ ⟨0x0FB0F000#32, 0x0320F000#32, false, fun w => .msrI (condAt w 28) (psrAt w 22) (w.extractLsb' 16 4) (w.extractLsb' 8 4) (w.extractLsb' 0 8)⟩,
  /- BX BX -/ ⟨0x0FFFFFF0#32, 0x012FFF10#32, false, fun w => .bx (condAt w 28) (regAt w 0)⟩,
  /- MUL MUL -/ ⟨0x0FE0F0F0#32, 0x00000090#32, false, fun w => .mul (condAt w 28) (w.getLsbD 20) (regAt w 16) (regAt w 8) (regAt w 0)⟩,
  /- MLA MUL -/ ⟨0x0FE000F0#32, 0x00200090#32, false, fun w => .mla (condAt w 28) (w.getLsbD 20) (regAt w 16) (regAt w 12) (regAt w 8) (regAt w 0)⟩,
  /- UMULL MLL -/ ⟨0x0FE000F0#32, 0x00800090#32, true, fun w => .umull (condAt w 28) (w.getLsbD 20) (regAt w 16) (regAt w 12) (regAt w 8) (regAt w 0)⟩,
  /- UMLAL MLL -/ ⟨0x0FE000F0#32, 0x00A00090#32, true, fun w => .umlal (condAt w 28) (w.getLsbD 20) (regAt w 16) (regAt w 12) (regAt w 8) (regAt w 0)⟩,
  /- SMULL MLL -/ ⟨0x0FE000F0#32, 0x00C00090#32, true, fun w => .smull (condAt w 28) (w.getLsbD 20) (regAt w 16) (regAt w 12) (regAt w 8) (regAt w 0)⟩,
  /- SMLAL MLL -/ ⟨0x0FE000F0#32, 0x00E00090#32, true, fun w => .smlal (condAt w 28) (w.getLsbD 20) (regAt w 16) (regAt w 12) (regAt w 8) (regAt w 0)⟩,
  /- SWP SWP -/ ⟨0x0FF00FF0#32, 0x01000090#32, false, fun w => .swp (condAt w 28) (regAt w 16) (regAt w 12) (regAt w 0)⟩,
  /- SWPB SWP -/ ⟨0x0FF00FF0#32, 0x01400090#32, false, fun w => .swpb (condAt w 28) (regAt w 16) (regAt w 12) (regAt w 0)⟩,
  /- STRH HSR -/ ⟨0x0E500FF0#32, 0x000000B0#32, true, fun w => .strhR (condAt w 28) (w.getLsbD 24) (w.getLsbD 23) (w.getLsbD 21) (regAt w 16) (regAt w 12) (regAt w 0)⟩,
  /- STRH HSI -/ ⟨0x0E5000F0#32, 0x004000B0#32, true, fun w => .strhI (condAt w 28) (w.getLsbD 24) (w.getLsbD 23) (w.getLsbD 21) (regAt w 16) (regAt w 12) (w.extractLsb' 8 4) (w.extractLsb' 0 4)⟩,
  /- LDRH HSR -/ ⟨0x0E500FF0#32, 0x001000B0#32, true, fun w => .ldrhR (condAt w 28) (w.getLsbD 24) (w.getLsbD 23) (w.getLsbD 21) (regAt w 16) (regAt w 12) (regAt w 0)⟩,
  /- LDRH HSI -/ ⟨0x0E5000F0#32, 0x005000B0#32, true, fun w => .ldrhI (condAt w 28) (w.getLsbD 24) (w.getLsbD 23) (w.getLsbD 21) (regAt w 16) (regAt w 12) (w.extractLsb' 8 4) (w.extractLsb' 0 4)⟩,
  /- LDRSB HSR -/ ⟨0x0E500FF0#32, 0x001000D0#32, true, fun w => .ldrsbR (condAt w 28) (w.getLsbD 24) (w.getLsbD 23) (w.getLsbD 21) (regAt w 16) (regAt w 12) (regAt w 0)⟩,
  /- LDRSB HSI -/ ⟨0x0E5000F0#32, 0x005000D0#32, true, fun w => .ldrsbI (condAt w 28) (w.getLsbD 24) (w.getLsbD 23) (w.getLsbD 21) (regAt w 16) (regAt w 12) (w.extractLsb' 8 4) (w.extractLsb' 0 4)⟩,
  /- LDRSH HSR -/ ⟨0x0E500FF0#32, 0x001000F0#32, true, fun w => .ldrshR (condAt w 28) (w.getLsbD 24) (w.getLsbD 23) (w.getLsbD 21) (regAt w 16) (regAt w 12) (regAt w 0)⟩,
  /- LDRSH HSI -/ ⟨0x0E5000F0#32, 0x005000F0#32, true, fun w => .ldrshI (condAt w 28) (w.getLsbD 24) (w.getLsbD 23) (w.getLsbD 21) (regAt w 16) (regAt w 12) (w.extractLsb' 8 4) (w.extractLsb' 0 4)⟩]

/-- Rows of the table: single and block transfer, undefined space, branch, coprocessor, SWI. -/
def armRowsRest : List ArmRow := [
  /- LDR SDT -/ ⟨0x0E500000#32, 0x04100000#32, false, fun w => .ldrI (condAt w 28) (w.getLsbD 24) (w.getLsbD 23) (w.getLsbD 21) (regAt w 16) (regAt w 12) (w.extractLsb' 0 12)⟩,
  /- LDR SDT -/ ⟨0x0E500010#32, 0x06100000#32, false, fun w => .ldrR (condAt w 28) (w.getLsbD 24) (w.getLsbD 23) (w.getLsbD 21) (regAt w 16) (regAt w 12) (w.extractLsb' 7 5) (shiftAt w 5) (regAt w 0)⟩,
  /- LDRB SDT -/ ⟨0x0E500000#32, 0x04500000#32, false, fun w => .ldrbI (condAt w 28) (w.getLsbD 24) (w.getLsbD 23) (w.getLsbD 21) (regAt w 16) (regAt w 12) (w.extractLsb' 0 12)⟩,
  /- LDRB SDT -/ ⟨0x0E500010#32, 0x06500000#32, false, fun w => .ldrbR (condAt w 28) (w.getLsbD 24) (w.getLsbD 23) (w.getLsbD 21) (regAt w 16) (regAt w 12) (w.extractLsb' 7 5) (shiftAt w 5) (regAt w 0)⟩,
  /- STR SDT -/ ⟨0x0E500000#32, 0x04000000#32, false, fun w => .strI (condAt w 28) (w.getLsbD 24) (w.getLsbD 23) (w.getLsbD 21) (regAt w 16) (regAt w 12) (w.extractLsb' 0 12)⟩,
  /- STR SDT -/ ⟨0x0E500010#32, 0x06000000#32, false, fun w => .strR (condAt w 28) (w.getLsbD 24) (w.getLsbD 23) (w.getLsbD 21) (regAt w 16) (regAt w 12) (w.extractLsb' 7 5) (shiftAt w 5) (regAt w 0)⟩,
  /- STRB SDT -/ ⟨0x0E500000#32, 0x04400000#32, false, fun w => .strbI (condAt w 28) (w.getLsbD 24) (w.getLsbD 23) (w.getLsbD 21) (regAt w 16) (regAt w 12) (w.extractLsb' 0 12)⟩,
  /- STRB SDT -/ ⟨0x0E500010#32, 0x06400000#32, false, fun w => .strbR (condAt w 28) (w.getLsbD 24) (w.getLsbD 23) (w.getLsbD 21) (regAt w 16) (regAt w 12) (w.extractLsb' 7 5) (shiftAt w 5) (regAt w 0)⟩,
  /- UNDEFINED UND -/ ⟨0x0E000010#32, 0x06000010#32, false, fun w => .undefined (condAt w 28) (w.extractLsb' 5 20) (w.extractLsb' 0 4)⟩,
  /- LDM BDT -/ ⟨0x0E100000#32, 0x08100000#32, false, fun w => .ldm (condAt w 28) (w.getLsbD 24) (w.getLsbD 23) (w.getLsbD 22) (w.getLsbD 21) (regAt w 16) (w.extractLsb' 0 16)⟩,
  /- STM BDT -/ ⟨0x0E100000#32, 0x08000000#32, false, fun w => .stm (condAt w 28) (w.getLsbD 24) (w.getLsbD 23) (w.getLsbD 22) (w.getLsbD 21) (regAt w 16) (w.extractLsb' 0 16)⟩,
  /- B BRA -/ ⟨0x0F000000#32, 0x0A000000#32, false, fun w => .b (condAt w 28) (w.extractLsb' 0 24)⟩,
  /- BL BRA -/ ⟨0x0F000000#32, 0x0B000000#32, false, fun w => .bl (condAt w 28) (w.extractLsb' 0 24)⟩,
  /- LDC CDT -/ ⟨0x0E100000#32, 0x0C100000#32, false, fun w => .ldc (condAt w 28) (w.getLsbD 24) (w.getLsbD 23) (w.getLsbD 22) (w.getLsbD 21) (regAt w 16) (w.extractLsb' 12 4) (w.extractLsb' 8 4) (w.extractLsb' 0 8)⟩,
  /- STC CDT -/ ⟨0x0E100000#32, 0x0C000000#32, false, fun w => .stc (condAt w 28) (w.getLsbD 24) (w.getLsbD 23) (w.getLsbD 22) (w.getLsbD 21) (regAt w 16) (w.extractLsb' 12 4) (w.extractLsb' 8 4) (w.extractLsb' 0 8)⟩,
  /- CDP CDO -/ ⟨0x0F000010#32, 0x0E000000#32, false, fun w => .cdp (condAt w 28) (w.extractLsb' 20 4) (w.extractLsb' 16 4) (w.extractLsb' 12 4) (w.extractLsb' 8 4) (w.extractLsb' 5 3) (w.extractLsb' 0 4)⟩,
  /- MRC CRT -/ ⟨0x0F100010#32, 0x0E100010#32, false, fun w => .mrc (condAt w 28) (w.extractLsb' 21 3) (w.extractLsb' 16 4) (regAt w 12) (w.extractLsb' 8 4) (w.extractLsb' 5 3) (w.extractLsb' 0 4)⟩,
  /- MCR CRT -/ ⟨0x0F100010#32, 0x0E000010#32, false, fun w => .mcr (condAt w 28) (w.extractLsb' 21 3) (w.extractLsb' 16 4) (regAt w 12) (w.extractLsb' 8 4) (w.extractLsb' 5 3) (w.extractLsb' 0 4)⟩,
  /- SWI SWI -/ ⟨0x0F000000#32, 0x0F000000#32, false, fun w => .swi (condAt w 28) (w.extractLsb' 0 24)⟩]

/-- Rows of the table: formats 1 to 5. -/
def thumbRowsAlu : List ThumbRow := [
  /- LSL T1 -/ ⟨0xF800#16, 0x0000#16, false, fun w => .tLslI (w.extractLsb' 6 5) (lowAt w 3) (lowAt w 0)⟩,
  /- LSR T1 -/ ⟨0xF800#16, 0x0800#16, false, fun w => .tLsrI (w.extractLsb' 6 5) (lowAt w 3) (lowAt w 0)⟩,
  /- ASR T1 -/ ⟨0xF800#16, 0x1000#16, false, fun w => .tAsrI (w.extractLsb' 6 5) (lowAt w 3) (lowAt w 0)⟩,
  /- ADD T2 -/ ⟨0xFE00#16, 0x1800#16, false, fun w => .tAddR (lowAt w 6) (lowAt w 3) (lowAt w 0)⟩,
  /- SUB T2 -/ ⟨0xFE00#16, 0x1A00#16, false, fun w => .tSubR (lowAt w 6) (lowAt w 3) (lowAt w 0)⟩,
  /- ADD T2 -/ ⟨0xFE00#16, 0x1C00#16, false, fun w => .tAddI3 (w.extractLsb' 6 3) (lowAt w 3) (lowAt w 0)⟩,
  /- SUB T2 -/ ⟨0xFE00#16, 0x1E00#16, false, fun w => .tSubI3 (w.extractLsb' 6 3) (lowAt w 3) (lowAt w 0)⟩,
  /- MOV T3 -/ ⟨0xF800#16, 0x2000#16, false, fun w => .tMovI (lowAt w 8) (w.extractLsb' 0 8)⟩,
  /- CMP T3 -/ ⟨0xF800#16, 0x2800#16, false, fun w => .tCmpI (lowAt w 8) (w.extractLsb' 0 8)⟩,
  /- ADD T3 -/ ⟨0xF800#16, 0x3000#16, false, fun w => .tAddI8 (lowAt w 8) (w.extractLsb' 0 8)⟩,
  /- SUB T3 -/ ⟨0xF800#16, 0x3800#16, false, fun w => .tSubI8 (lowAt w 8) (w.extractLsb' 0 8)⟩,
  /- AND T4 -/ ⟨0xFFC0#16, 0x4000#16, false, fun w => .tAnd (lowAt w 3) (lowAt w 0)⟩,
  /- EOR T4 -/ ⟨0xFFC0#16, 0x4040#16, false, fun w => .tEor (lowAt w 3) (lowAt w 0)⟩,
  /- LSL T4 -/ ⟨0xFFC0#16, 0x4080#16, false, fun w => .tLslR (lowAt w 3) (lowAt w 0)⟩,
  /- LSR T4 -/ ⟨0xFFC0#16, 0x40C0#16, false, fun w => .tLsrR (lowAt w 3) (lowAt w 0)⟩,
  /- ASR T4 -/ ⟨0xFFC0#16, 0x4100#16, false, fun w => .tAsrR (lowAt w 3) (lowAt w 0)⟩,
  /- ADC T4 -/ ⟨0xFFC0#16, 0x4140#16, false, fun w => .tAdc (lowAt w 3) (lowAt w 0)⟩,
  /- SBC T4 -/ ⟨0xFFC0#16, 0x4180#16, false, fun w => .tSbc (lowAt w 3) (lowAt w 0)⟩,
  /- ROR T4 -/ ⟨0xFFC0#16, 0x41C0#16, false, fun w => .tRorR (lowAt w 3) (lowAt w 0)⟩,
  /- TST T4 -/ ⟨0xFFC0#16, 0x4200#16, false, fun w => .tTst (lowAt w 3) (lowAt w 0)⟩,
  /- NEG T4 -/ ⟨0xFFC0#16, 0x4240#16, false, fun w => .tNeg (lowAt w 3) (lowAt w 0)⟩,
  /- CMP T4 -/ ⟨0xFFC0#16, 0x4280#16, false, fun w => .tCmpR (lowAt w 3) (lowAt w 0)⟩,
  /- CMN T4 -/ ⟨0xFFC0#16, 0x42C0#16, false, fun w => .tCmn (lowAt w 3) (lowAt w 0)⟩,
  /- ORR T4 -/ ⟨0xFFC0#16, 0x4300#16, false, fun w => .tOrr (lowAt w 3) (lowAt w 0)⟩,
  /- MUL T4 -/ ⟨0xFFC0#16, 0x4340#16, false, fun w => .tMul (lowAt w 3) (lowAt w 0)⟩,
  /- BIC T4 -/ ⟨0xFFC0#16, 0x4380#16, false, fun w => .tBic (lowAt w 3) (lowAt w 0)⟩,
  /- MVN T4 -/ ⟨0xFFC0#16, 0x43C0#16, false, fun w => .tMvn (lowAt w 3) (lowAt w 0)⟩,
  /- ADD T5 -/ ⟨0xFF00#16, 0x4400#16, false, fun w => .tAddHi (highAt w 6 3) (highAt w 7 0)⟩,
  /- CMP T5 -/ ⟨0xFF00#16, 0x4500#16, false, fun w => .tCmpHi (highAt w 6 3) (highAt w 7 0)⟩,
  /- MOV T5 -/ ⟨0xFF00#16, 0x4600#16, false, fun w => .tMovHi (highAt w 6 3) (highAt w 7 0)⟩,
  /- BX T5 -/ ⟨0xFF87#16, 0x4700#16, false, fun w => .tBx (highAt w 6 3)⟩]

/-- Rows of the table: formats 6 to 15. -/
def thumbRowsMemory : List ThumbRow := [
  /- LDR T6 -/ ⟨0xF800#16, 0x4800#16, false, fun w => .tLdrPc (lowAt w 8) (w.extractLsb' 0 8)⟩,
  /- STR T7 -/ ⟨0xFE00#16, 0x5000#16, false, fun w => .tStrR (lowAt w 6) (lowAt w 3) (lowAt w 0)⟩,
  /- STRB T7 -/ ⟨0xFE00#16, 0x5400#16, false, fun w => .tStrbR (lowAt w 6) (lowAt w 3) (lowAt w 0)⟩,
  /- LDR T7 -/ ⟨0xFE00#16, 0x5800#16, false, fun w => .tLdrR (lowAt w 6) (lowAt w 3) (lowAt w 0)⟩,
  /- LDRB T7 -/ ⟨0xFE00#16, 0x5C00#16, false, fun w => .tLdrbR (lowAt w 6) (lowAt w 3) (lowAt w 0)⟩,
  /- STRH T8 -/ ⟨0xFE00#16, 0x5200#16, true, fun w => .tStrhR (lowAt w 6) (lowAt w 3) (lowAt w 0)⟩,
  /- LDSB T8 -/ ⟨0xFE00#16, 0x5600#16, true, fun w => .tLdsbR (lowAt w 6) (lowAt w 3) (lowAt w 0)⟩,
  /- LDRH T8 -/ ⟨0xFE00#16, 0x5A00#16, true, fun w => .tLdrhR (lowAt w 6) (lowAt w 3) (lowAt w 0)⟩,
  /- LDSH T8 -/ ⟨0xFE00#16, 0x5E00#16, true, fun w => .tLdshR (lowAt w 6) (lowAt w 3) (lowAt w 0)⟩,
  /- STR T9 -/ ⟨0xF800#16, 0x6000#16, false, fun w => .tStrI (w.extractLsb' 6 5) (lowAt w 3) (lowAt w 0)⟩,
  /- LDR T9 -/ ⟨0xF800#16, 0x6800#16, false, fun w => .tLdrI (w.extractLsb' 6 5) (lowAt w 3) (lowAt w 0)⟩,
  /- STRB T9 -/ ⟨0xF800#16, 0x7000#16, false, fun w => .tStrbI (w.extractLsb' 6 5) (lowAt w 3) (lowAt w 0)⟩,
  /- LDRB T9 -/ ⟨0xF800#16, 0x7800#16, false, fun w => .tLdrbI (w.extractLsb' 6 5) (lowAt w 3) (lowAt w 0)⟩,
  /- STRH T10 -/ ⟨0xF800#16, 0x8000#16, true, fun w => .tStrhI (w.extractLsb' 6 5) (lowAt w 3) (lowAt w 0)⟩,
  /- LDRH T10 -/ ⟨0xF800#16, 0x8800#16, true, fun w => .tLdrhI (w.extractLsb' 6 5) (lowAt w 3) (lowAt w 0)⟩,
  /- STR T11 -/ ⟨0xF800#16, 0x9000#16, false, fun w => .tStrSp (lowAt w 8) (w.extractLsb' 0 8)⟩,
  /- LDR T11 -/ ⟨0xF800#16, 0x9800#16, false, fun w => .tLdrSp (lowAt w 8) (w.extractLsb' 0 8)⟩,
  /- ADD T12 -/ ⟨0xF800#16, 0xA000#16, false, fun w => .tAddPc (lowAt w 8) (w.extractLsb' 0 8)⟩,
  /- ADD T12 -/ ⟨0xF800#16, 0xA800#16, false, fun w => .tAddSp (lowAt w 8) (w.extractLsb' 0 8)⟩,
  /- ADD T13 -/ ⟨0xFF80#16, 0xB000#16, false, fun w => .tSpAdd (w.extractLsb' 0 7)⟩,
  /- SUB T13 -/ ⟨0xFF80#16, 0xB080#16, false, fun w => .tSpSub (w.extractLsb' 0 7)⟩,
  /- PUSH T14 -/ ⟨0xFE00#16, 0xB400#16, false, fun w => .tPush (w.getLsbD 8) (w.extractLsb' 0 8)⟩,
  /- POP T14 -/ ⟨0xFE00#16, 0xBC00#16, false, fun w => .tPop (w.getLsbD 8) (w.extractLsb' 0 8)⟩,
  /- STMIA T15 -/ ⟨0xF800#16, 0xC000#16, false, fun w => .tStmia (lowAt w 8) (w.extractLsb' 0 8)⟩,
  /- LDMIA T15 -/ ⟨0xF800#16, 0xC800#16, false, fun w => .tLdmia (lowAt w 8) (w.extractLsb' 0 8)⟩]

/-- Rows of the table: formats 16 to 19. -/
def thumbRowsBranch : List ThumbRow := [
  /- BEQ T16 -/ ⟨0xFF00#16, 0xD000#16, false, fun w => .tBeq (w.extractLsb' 0 8)⟩,
  /- BNE T16 -/ ⟨0xFF00#16, 0xD100#16, false, fun w => .tBne (w.extractLsb' 0 8)⟩,
  /- BCS T16 -/ ⟨0xFF00#16, 0xD200#16, false, fun w => .tBcs (w.extractLsb' 0 8)⟩,
  /- BCC T16 -/ ⟨0xFF00#16, 0xD300#16, false, fun w => .tBcc (w.extractLsb' 0 8)⟩,
  /- BMI T16 -/ ⟨0xFF00#16, 0xD400#16, false, fun w => .tBmi (w.extractLsb' 0 8)⟩,
  /- BPL T16 -/ ⟨0xFF00#16, 0xD500#16, false, fun w => .tBpl (w.extractLsb' 0 8)⟩,
  /- BVS T16 -/ ⟨0xFF00#16, 0xD600#16, false, fun w => .tBvs (w.extractLsb' 0 8)⟩,
  /- BVC T16 -/ ⟨0xFF00#16, 0xD700#16, false, fun w => .tBvc (w.extractLsb' 0 8)⟩,
  /- BHI T16 -/ ⟨0xFF00#16, 0xD800#16, false, fun w => .tBhi (w.extractLsb' 0 8)⟩,
  /- BLS T16 -/ ⟨0xFF00#16, 0xD900#16, false, fun w => .tBls (w.extractLsb' 0 8)⟩,
  /- BGE T16 -/ ⟨0xFF00#16, 0xDA00#16, false, fun w => .tBge (w.extractLsb' 0 8)⟩,
  /- BLT T16 -/ ⟨0xFF00#16, 0xDB00#16, false, fun w => .tBlt (w.extractLsb' 0 8)⟩,
  /- BGT T16 -/ ⟨0xFF00#16, 0xDC00#16, false, fun w => .tBgt (w.extractLsb' 0 8)⟩,
  /- BLE T16 -/ ⟨0xFF00#16, 0xDD00#16, false, fun w => .tBle (w.extractLsb' 0 8)⟩,
  /- UNDEFINED T16 -/ ⟨0xFF00#16, 0xDE00#16, false, fun w => .tUndefined (w.extractLsb' 0 8)⟩,
  /- SWI T17 -/ ⟨0xFF00#16, 0xDF00#16, false, fun w => .tSwi (w.extractLsb' 0 8)⟩,
  /- B T18 -/ ⟨0xF800#16, 0xE000#16, false, fun w => .tB (w.extractLsb' 0 11)⟩,
  /- BL T19 -/ ⟨0xF800#16, 0xF000#16, false, fun w => .tBlFirst (w.extractLsb' 0 11)⟩,
  /- BL T19 -/ ⟨0xF800#16, 0xF800#16, false, fun w => .tBlSecond (w.extractLsb' 0 11)⟩]

/-- The ARM rows, in the order of spec/opcode_table.json. -/
def armRows : List ArmRow := armRowsAnd ++ armRowsSbc ++ armRowsOrr ++ armRowsMisc ++ armRowsRest

/-- The THUMB rows, in the order of spec/opcode_table.json. -/
def thumbRows : List ThumbRow := thumbRowsAlu ++ thumbRowsMemory ++ thumbRowsBranch

/-- DecodeARM (R110): the row that matches; NoMatch when there is none, or when it is marked V4T_EXTRAS and the parameter
is false. It does not look at the condition field. -/
def decodeArm (extras : Bool) (w : Word) : Except DecodeError Instr :=
  match armRows.find? (fun r => w &&& r.mask == r.bits) with
  | none => .error .noMatch
  | some r => if r.extras && !extras then .error .needsExtras else .ok (r.build w)

/-- DecodeTHUMB (R113, R250), likewise. -/
def decodeThumb (extras : Bool) (h : Half) : Except DecodeError Instr :=
  match thumbRows.find? (fun r => h &&& r.mask == r.bits) with
  | none => .error .noMatch
  | some r => if r.extras && !extras then .error .needsExtras else .ok (r.build h)

/-- Decoding of an instruction's bits in either state (R90). -/
def decode (extras : Bool) : Code → Except DecodeError Instr
  | .arm w => decodeArm extras w
  | .thumb h => decodeThumb extras h

/-- Decoding from bytes, lowest address first, little-endian (R63, R90): the instruction and the bytes after it. -/
def decodeBytes (extras thumb : Bool) : List Byte → Except DecodeError (Instr × List Byte)
  | b0 :: b1 :: rest =>
    if thumb then (decodeThumb extras (b1 ++ b0)).map (·, rest)
    else match rest with
      | b2 :: b3 :: rest' => (decodeArm extras (b3 ++ b2 ++ b1 ++ b0)).map (·, rest')
      | _ => .error .truncated
  | _ => .error .truncated

/-! ### The encoder -/

/-- The bits of an instruction, written from the layouts of `30_encoding.md` and `47_thumb.md` (R94 to R109, R252 to R270). -/
def encode : Instr → Code
  | .andI c sf rn rd rot imm8 => .arm (c.toBits ++ 0b0010000#7 ++ BitVec.ofBool sf ++ regBits rn ++ regBits rd ++ rot ++ imm8)
  | .andR c sf rn rd amount ty rm => .arm (c.toBits ++ 0b0000000#7 ++ BitVec.ofBool sf ++ regBits rn ++ regBits rd ++ amount ++ ty.toBits ++ 0b0#1 ++ regBits rm)
  | .andS c sf rn rd rs ty rm => .arm (c.toBits ++ 0b0000000#7 ++ BitVec.ofBool sf ++ regBits rn ++ regBits rd ++ regBits rs ++ 0b0#1 ++ ty.toBits ++ 0b1#1 ++ regBits rm)
  | .eorI c sf rn rd rot imm8 => .arm (c.toBits ++ 0b0010001#7 ++ BitVec.ofBool sf ++ regBits rn ++ regBits rd ++ rot ++ imm8)
  | .eorR c sf rn rd amount ty rm => .arm (c.toBits ++ 0b0000001#7 ++ BitVec.ofBool sf ++ regBits rn ++ regBits rd ++ amount ++ ty.toBits ++ 0b0#1 ++ regBits rm)
  | .eorS c sf rn rd rs ty rm => .arm (c.toBits ++ 0b0000001#7 ++ BitVec.ofBool sf ++ regBits rn ++ regBits rd ++ regBits rs ++ 0b0#1 ++ ty.toBits ++ 0b1#1 ++ regBits rm)
  | .subI c sf rn rd rot imm8 => .arm (c.toBits ++ 0b0010010#7 ++ BitVec.ofBool sf ++ regBits rn ++ regBits rd ++ rot ++ imm8)
  | .subR c sf rn rd amount ty rm => .arm (c.toBits ++ 0b0000010#7 ++ BitVec.ofBool sf ++ regBits rn ++ regBits rd ++ amount ++ ty.toBits ++ 0b0#1 ++ regBits rm)
  | .subS c sf rn rd rs ty rm => .arm (c.toBits ++ 0b0000010#7 ++ BitVec.ofBool sf ++ regBits rn ++ regBits rd ++ regBits rs ++ 0b0#1 ++ ty.toBits ++ 0b1#1 ++ regBits rm)
  | .rsbI c sf rn rd rot imm8 => .arm (c.toBits ++ 0b0010011#7 ++ BitVec.ofBool sf ++ regBits rn ++ regBits rd ++ rot ++ imm8)
  | .rsbR c sf rn rd amount ty rm => .arm (c.toBits ++ 0b0000011#7 ++ BitVec.ofBool sf ++ regBits rn ++ regBits rd ++ amount ++ ty.toBits ++ 0b0#1 ++ regBits rm)
  | .rsbS c sf rn rd rs ty rm => .arm (c.toBits ++ 0b0000011#7 ++ BitVec.ofBool sf ++ regBits rn ++ regBits rd ++ regBits rs ++ 0b0#1 ++ ty.toBits ++ 0b1#1 ++ regBits rm)
  | .addI c sf rn rd rot imm8 => .arm (c.toBits ++ 0b0010100#7 ++ BitVec.ofBool sf ++ regBits rn ++ regBits rd ++ rot ++ imm8)
  | .addR c sf rn rd amount ty rm => .arm (c.toBits ++ 0b0000100#7 ++ BitVec.ofBool sf ++ regBits rn ++ regBits rd ++ amount ++ ty.toBits ++ 0b0#1 ++ regBits rm)
  | .addS c sf rn rd rs ty rm => .arm (c.toBits ++ 0b0000100#7 ++ BitVec.ofBool sf ++ regBits rn ++ regBits rd ++ regBits rs ++ 0b0#1 ++ ty.toBits ++ 0b1#1 ++ regBits rm)
  | .adcI c sf rn rd rot imm8 => .arm (c.toBits ++ 0b0010101#7 ++ BitVec.ofBool sf ++ regBits rn ++ regBits rd ++ rot ++ imm8)
  | .adcR c sf rn rd amount ty rm => .arm (c.toBits ++ 0b0000101#7 ++ BitVec.ofBool sf ++ regBits rn ++ regBits rd ++ amount ++ ty.toBits ++ 0b0#1 ++ regBits rm)
  | .adcS c sf rn rd rs ty rm => .arm (c.toBits ++ 0b0000101#7 ++ BitVec.ofBool sf ++ regBits rn ++ regBits rd ++ regBits rs ++ 0b0#1 ++ ty.toBits ++ 0b1#1 ++ regBits rm)
  | .sbcI c sf rn rd rot imm8 => .arm (c.toBits ++ 0b0010110#7 ++ BitVec.ofBool sf ++ regBits rn ++ regBits rd ++ rot ++ imm8)
  | .sbcR c sf rn rd amount ty rm => .arm (c.toBits ++ 0b0000110#7 ++ BitVec.ofBool sf ++ regBits rn ++ regBits rd ++ amount ++ ty.toBits ++ 0b0#1 ++ regBits rm)
  | .sbcS c sf rn rd rs ty rm => .arm (c.toBits ++ 0b0000110#7 ++ BitVec.ofBool sf ++ regBits rn ++ regBits rd ++ regBits rs ++ 0b0#1 ++ ty.toBits ++ 0b1#1 ++ regBits rm)
  | .rscI c sf rn rd rot imm8 => .arm (c.toBits ++ 0b0010111#7 ++ BitVec.ofBool sf ++ regBits rn ++ regBits rd ++ rot ++ imm8)
  | .rscR c sf rn rd amount ty rm => .arm (c.toBits ++ 0b0000111#7 ++ BitVec.ofBool sf ++ regBits rn ++ regBits rd ++ amount ++ ty.toBits ++ 0b0#1 ++ regBits rm)
  | .rscS c sf rn rd rs ty rm => .arm (c.toBits ++ 0b0000111#7 ++ BitVec.ofBool sf ++ regBits rn ++ regBits rd ++ regBits rs ++ 0b0#1 ++ ty.toBits ++ 0b1#1 ++ regBits rm)
  | .tstI c rn rot imm8 => .arm (c.toBits ++ 0b00110001#8 ++ regBits rn ++ 0b0000#4 ++ rot ++ imm8)
  | .tstR c rn amount ty rm => .arm (c.toBits ++ 0b00010001#8 ++ regBits rn ++ 0b0000#4 ++ amount ++ ty.toBits ++ 0b0#1 ++ regBits rm)
  | .tstS c rn rs ty rm => .arm (c.toBits ++ 0b00010001#8 ++ regBits rn ++ 0b0000#4 ++ regBits rs ++ 0b0#1 ++ ty.toBits ++ 0b1#1 ++ regBits rm)
  | .teqI c rn rot imm8 => .arm (c.toBits ++ 0b00110011#8 ++ regBits rn ++ 0b0000#4 ++ rot ++ imm8)
  | .teqR c rn amount ty rm => .arm (c.toBits ++ 0b00010011#8 ++ regBits rn ++ 0b0000#4 ++ amount ++ ty.toBits ++ 0b0#1 ++ regBits rm)
  | .teqS c rn rs ty rm => .arm (c.toBits ++ 0b00010011#8 ++ regBits rn ++ 0b0000#4 ++ regBits rs ++ 0b0#1 ++ ty.toBits ++ 0b1#1 ++ regBits rm)
  | .cmpI c rn rot imm8 => .arm (c.toBits ++ 0b00110101#8 ++ regBits rn ++ 0b0000#4 ++ rot ++ imm8)
  | .cmpR c rn amount ty rm => .arm (c.toBits ++ 0b00010101#8 ++ regBits rn ++ 0b0000#4 ++ amount ++ ty.toBits ++ 0b0#1 ++ regBits rm)
  | .cmpS c rn rs ty rm => .arm (c.toBits ++ 0b00010101#8 ++ regBits rn ++ 0b0000#4 ++ regBits rs ++ 0b0#1 ++ ty.toBits ++ 0b1#1 ++ regBits rm)
  | .cmnI c rn rot imm8 => .arm (c.toBits ++ 0b00110111#8 ++ regBits rn ++ 0b0000#4 ++ rot ++ imm8)
  | .cmnR c rn amount ty rm => .arm (c.toBits ++ 0b00010111#8 ++ regBits rn ++ 0b0000#4 ++ amount ++ ty.toBits ++ 0b0#1 ++ regBits rm)
  | .cmnS c rn rs ty rm => .arm (c.toBits ++ 0b00010111#8 ++ regBits rn ++ 0b0000#4 ++ regBits rs ++ 0b0#1 ++ ty.toBits ++ 0b1#1 ++ regBits rm)
  | .orrI c sf rn rd rot imm8 => .arm (c.toBits ++ 0b0011100#7 ++ BitVec.ofBool sf ++ regBits rn ++ regBits rd ++ rot ++ imm8)
  | .orrR c sf rn rd amount ty rm => .arm (c.toBits ++ 0b0001100#7 ++ BitVec.ofBool sf ++ regBits rn ++ regBits rd ++ amount ++ ty.toBits ++ 0b0#1 ++ regBits rm)
  | .orrS c sf rn rd rs ty rm => .arm (c.toBits ++ 0b0001100#7 ++ BitVec.ofBool sf ++ regBits rn ++ regBits rd ++ regBits rs ++ 0b0#1 ++ ty.toBits ++ 0b1#1 ++ regBits rm)
  | .movI c sf rd rot imm8 => .arm (c.toBits ++ 0b0011101#7 ++ BitVec.ofBool sf ++ 0b0000#4 ++ regBits rd ++ rot ++ imm8)
  | .movR c sf rd amount ty rm => .arm (c.toBits ++ 0b0001101#7 ++ BitVec.ofBool sf ++ 0b0000#4 ++ regBits rd ++ amount ++ ty.toBits ++ 0b0#1 ++ regBits rm)
  | .movS c sf rd rs ty rm => .arm (c.toBits ++ 0b0001101#7 ++ BitVec.ofBool sf ++ 0b0000#4 ++ regBits rd ++ regBits rs ++ 0b0#1 ++ ty.toBits ++ 0b1#1 ++ regBits rm)
  | .bicI c sf rn rd rot imm8 => .arm (c.toBits ++ 0b0011110#7 ++ BitVec.ofBool sf ++ regBits rn ++ regBits rd ++ rot ++ imm8)
  | .bicR c sf rn rd amount ty rm => .arm (c.toBits ++ 0b0001110#7 ++ BitVec.ofBool sf ++ regBits rn ++ regBits rd ++ amount ++ ty.toBits ++ 0b0#1 ++ regBits rm)
  | .bicS c sf rn rd rs ty rm => .arm (c.toBits ++ 0b0001110#7 ++ BitVec.ofBool sf ++ regBits rn ++ regBits rd ++ regBits rs ++ 0b0#1 ++ ty.toBits ++ 0b1#1 ++ regBits rm)
  | .mvnI c sf rd rot imm8 => .arm (c.toBits ++ 0b0011111#7 ++ BitVec.ofBool sf ++ 0b0000#4 ++ regBits rd ++ rot ++ imm8)
  | .mvnR c sf rd amount ty rm => .arm (c.toBits ++ 0b0001111#7 ++ BitVec.ofBool sf ++ 0b0000#4 ++ regBits rd ++ amount ++ ty.toBits ++ 0b0#1 ++ regBits rm)
  | .mvnS c sf rd rs ty rm => .arm (c.toBits ++ 0b0001111#7 ++ BitVec.ofBool sf ++ 0b0000#4 ++ regBits rd ++ regBits rs ++ 0b0#1 ++ ty.toBits ++ 0b1#1 ++ regBits rm)
  | .mrs c psr rd => .arm (c.toBits ++ 0b00010#5 ++ psr.toBits ++ 0b001111#6 ++ regBits rd ++ 0b000000000000#12)
  | .msrR c psr mask rm => .arm (c.toBits ++ 0b00010#5 ++ psr.toBits ++ 0b10#2 ++ mask ++ 0b111100000000#12 ++ regBits rm)
  | .msrI c psr mask rot imm8 => .arm (c.toBits ++ 0b00110#5 ++ psr.toBits ++ 0b10#2 ++ mask ++ 0b1111#4 ++ rot ++ imm8)
  | .bx c rm => .arm (c.toBits ++ 0b000100101111111111110001#24 ++ regBits rm)
  | .mul c sf rd rs rm => .arm (c.toBits ++ 0b0000000#7 ++ BitVec.ofBool sf ++ regBits rd ++ 0b0000#4 ++ regBits rs ++ 0b1001#4 ++ regBits rm)
  | .mla c sf rd rn rs rm => .arm (c.toBits ++ 0b0000001#7 ++ BitVec.ofBool sf ++ regBits rd ++ regBits rn ++ regBits rs ++ 0b1001#4 ++ regBits rm)
  | .umull c sf rdHi rdLo rs rm => .arm (c.toBits ++ 0b0000100#7 ++ BitVec.ofBool sf ++ regBits rdHi ++ regBits rdLo ++ regBits rs ++ 0b1001#4 ++ regBits rm)
  | .umlal c sf rdHi rdLo rs rm => .arm (c.toBits ++ 0b0000101#7 ++ BitVec.ofBool sf ++ regBits rdHi ++ regBits rdLo ++ regBits rs ++ 0b1001#4 ++ regBits rm)
  | .smull c sf rdHi rdLo rs rm => .arm (c.toBits ++ 0b0000110#7 ++ BitVec.ofBool sf ++ regBits rdHi ++ regBits rdLo ++ regBits rs ++ 0b1001#4 ++ regBits rm)
  | .smlal c sf rdHi rdLo rs rm => .arm (c.toBits ++ 0b0000111#7 ++ BitVec.ofBool sf ++ regBits rdHi ++ regBits rdLo ++ regBits rs ++ 0b1001#4 ++ regBits rm)
  | .swp c rn rd rm => .arm (c.toBits ++ 0b00010000#8 ++ regBits rn ++ regBits rd ++ 0b00001001#8 ++ regBits rm)
  | .swpb c rn rd rm => .arm (c.toBits ++ 0b00010100#8 ++ regBits rn ++ regBits rd ++ 0b00001001#8 ++ regBits rm)
  | .strhR c p u w rn rd rm => .arm (c.toBits ++ 0b000#3 ++ BitVec.ofBool p ++ BitVec.ofBool u ++ 0b0#1 ++ BitVec.ofBool w ++ 0b0#1 ++ regBits rn ++ regBits rd ++ 0b00001011#8 ++ regBits rm)
  | .strhI c p u w rn rd immHi immLo => .arm (c.toBits ++ 0b000#3 ++ BitVec.ofBool p ++ BitVec.ofBool u ++ 0b1#1 ++ BitVec.ofBool w ++ 0b0#1 ++ regBits rn ++ regBits rd ++ immHi ++ 0b1011#4 ++ immLo)
  | .ldrhR c p u w rn rd rm => .arm (c.toBits ++ 0b000#3 ++ BitVec.ofBool p ++ BitVec.ofBool u ++ 0b0#1 ++ BitVec.ofBool w ++ 0b1#1 ++ regBits rn ++ regBits rd ++ 0b00001011#8 ++ regBits rm)
  | .ldrhI c p u w rn rd immHi immLo => .arm (c.toBits ++ 0b000#3 ++ BitVec.ofBool p ++ BitVec.ofBool u ++ 0b1#1 ++ BitVec.ofBool w ++ 0b1#1 ++ regBits rn ++ regBits rd ++ immHi ++ 0b1011#4 ++ immLo)
  | .ldrsbR c p u w rn rd rm => .arm (c.toBits ++ 0b000#3 ++ BitVec.ofBool p ++ BitVec.ofBool u ++ 0b0#1 ++ BitVec.ofBool w ++ 0b1#1 ++ regBits rn ++ regBits rd ++ 0b00001101#8 ++ regBits rm)
  | .ldrsbI c p u w rn rd immHi immLo => .arm (c.toBits ++ 0b000#3 ++ BitVec.ofBool p ++ BitVec.ofBool u ++ 0b1#1 ++ BitVec.ofBool w ++ 0b1#1 ++ regBits rn ++ regBits rd ++ immHi ++ 0b1101#4 ++ immLo)
  | .ldrshR c p u w rn rd rm => .arm (c.toBits ++ 0b000#3 ++ BitVec.ofBool p ++ BitVec.ofBool u ++ 0b0#1 ++ BitVec.ofBool w ++ 0b1#1 ++ regBits rn ++ regBits rd ++ 0b00001111#8 ++ regBits rm)
  | .ldrshI c p u w rn rd immHi immLo => .arm (c.toBits ++ 0b000#3 ++ BitVec.ofBool p ++ BitVec.ofBool u ++ 0b1#1 ++ BitVec.ofBool w ++ 0b1#1 ++ regBits rn ++ regBits rd ++ immHi ++ 0b1111#4 ++ immLo)
  | .ldrI c p u w rn rd imm12 => .arm (c.toBits ++ 0b010#3 ++ BitVec.ofBool p ++ BitVec.ofBool u ++ 0b0#1 ++ BitVec.ofBool w ++ 0b1#1 ++ regBits rn ++ regBits rd ++ imm12)
  | .ldrR c p u w rn rd amount ty rm => .arm (c.toBits ++ 0b011#3 ++ BitVec.ofBool p ++ BitVec.ofBool u ++ 0b0#1 ++ BitVec.ofBool w ++ 0b1#1 ++ regBits rn ++ regBits rd ++ amount ++ ty.toBits ++ 0b0#1 ++ regBits rm)
  | .ldrbI c p u w rn rd imm12 => .arm (c.toBits ++ 0b010#3 ++ BitVec.ofBool p ++ BitVec.ofBool u ++ 0b1#1 ++ BitVec.ofBool w ++ 0b1#1 ++ regBits rn ++ regBits rd ++ imm12)
  | .ldrbR c p u w rn rd amount ty rm => .arm (c.toBits ++ 0b011#3 ++ BitVec.ofBool p ++ BitVec.ofBool u ++ 0b1#1 ++ BitVec.ofBool w ++ 0b1#1 ++ regBits rn ++ regBits rd ++ amount ++ ty.toBits ++ 0b0#1 ++ regBits rm)
  | .strI c p u w rn rd imm12 => .arm (c.toBits ++ 0b010#3 ++ BitVec.ofBool p ++ BitVec.ofBool u ++ 0b0#1 ++ BitVec.ofBool w ++ 0b0#1 ++ regBits rn ++ regBits rd ++ imm12)
  | .strR c p u w rn rd amount ty rm => .arm (c.toBits ++ 0b011#3 ++ BitVec.ofBool p ++ BitVec.ofBool u ++ 0b0#1 ++ BitVec.ofBool w ++ 0b0#1 ++ regBits rn ++ regBits rd ++ amount ++ ty.toBits ++ 0b0#1 ++ regBits rm)
  | .strbI c p u w rn rd imm12 => .arm (c.toBits ++ 0b010#3 ++ BitVec.ofBool p ++ BitVec.ofBool u ++ 0b1#1 ++ BitVec.ofBool w ++ 0b0#1 ++ regBits rn ++ regBits rd ++ imm12)
  | .strbR c p u w rn rd amount ty rm => .arm (c.toBits ++ 0b011#3 ++ BitVec.ofBool p ++ BitVec.ofBool u ++ 0b1#1 ++ BitVec.ofBool w ++ 0b0#1 ++ regBits rn ++ regBits rd ++ amount ++ ty.toBits ++ 0b0#1 ++ regBits rm)
  | .undefined c hi lo => .arm (c.toBits ++ 0b011#3 ++ hi ++ 0b1#1 ++ lo)
  | .ldm c p u hat w rn list => .arm (c.toBits ++ 0b100#3 ++ BitVec.ofBool p ++ BitVec.ofBool u ++ BitVec.ofBool hat ++ BitVec.ofBool w ++ 0b1#1 ++ regBits rn ++ list)
  | .stm c p u hat w rn list => .arm (c.toBits ++ 0b100#3 ++ BitVec.ofBool p ++ BitVec.ofBool u ++ BitVec.ofBool hat ++ BitVec.ofBool w ++ 0b0#1 ++ regBits rn ++ list)
  | .b c offset24 => .arm (c.toBits ++ 0b1010#4 ++ offset24)
  | .bl c offset24 => .arm (c.toBits ++ 0b1011#4 ++ offset24)
  | .ldc c p u n w rn crd cp offset8 => .arm (c.toBits ++ 0b110#3 ++ BitVec.ofBool p ++ BitVec.ofBool u ++ BitVec.ofBool n ++ BitVec.ofBool w ++ 0b1#1 ++ regBits rn ++ crd ++ cp ++ offset8)
  | .stc c p u n w rn crd cp offset8 => .arm (c.toBits ++ 0b110#3 ++ BitVec.ofBool p ++ BitVec.ofBool u ++ BitVec.ofBool n ++ BitVec.ofBool w ++ 0b0#1 ++ regBits rn ++ crd ++ cp ++ offset8)
  | .cdp c opc1 crn crd cp opc2 crm => .arm (c.toBits ++ 0b1110#4 ++ opc1 ++ crn ++ crd ++ cp ++ opc2 ++ 0b0#1 ++ crm)
  | .mrc c opc1 crn rd cp opc2 crm => .arm (c.toBits ++ 0b1110#4 ++ opc1 ++ 0b1#1 ++ crn ++ regBits rd ++ cp ++ opc2 ++ 0b1#1 ++ crm)
  | .mcr c opc1 crn rd cp opc2 crm => .arm (c.toBits ++ 0b1110#4 ++ opc1 ++ 0b0#1 ++ crn ++ regBits rd ++ cp ++ opc2 ++ 0b1#1 ++ crm)
  | .swi c comment24 => .arm (c.toBits ++ 0b1111#4 ++ comment24)
  | .tLslI offset5 rs rd => .thumb (0b00000#5 ++ offset5 ++ lowRegBits rs ++ lowRegBits rd)
  | .tLsrI offset5 rs rd => .thumb (0b00001#5 ++ offset5 ++ lowRegBits rs ++ lowRegBits rd)
  | .tAsrI offset5 rs rd => .thumb (0b00010#5 ++ offset5 ++ lowRegBits rs ++ lowRegBits rd)
  | .tAddR rn rs rd => .thumb (0b0001100#7 ++ lowRegBits rn ++ lowRegBits rs ++ lowRegBits rd)
  | .tSubR rn rs rd => .thumb (0b0001101#7 ++ lowRegBits rn ++ lowRegBits rs ++ lowRegBits rd)
  | .tAddI3 imm3 rs rd => .thumb (0b0001110#7 ++ imm3 ++ lowRegBits rs ++ lowRegBits rd)
  | .tSubI3 imm3 rs rd => .thumb (0b0001111#7 ++ imm3 ++ lowRegBits rs ++ lowRegBits rd)
  | .tMovI rd imm8 => .thumb (0b00100#5 ++ lowRegBits rd ++ imm8)
  | .tCmpI rd imm8 => .thumb (0b00101#5 ++ lowRegBits rd ++ imm8)
  | .tAddI8 rd imm8 => .thumb (0b00110#5 ++ lowRegBits rd ++ imm8)
  | .tSubI8 rd imm8 => .thumb (0b00111#5 ++ lowRegBits rd ++ imm8)
  | .tAnd rs rd => .thumb (0b0100000000#10 ++ lowRegBits rs ++ lowRegBits rd)
  | .tEor rs rd => .thumb (0b0100000001#10 ++ lowRegBits rs ++ lowRegBits rd)
  | .tLslR rs rd => .thumb (0b0100000010#10 ++ lowRegBits rs ++ lowRegBits rd)
  | .tLsrR rs rd => .thumb (0b0100000011#10 ++ lowRegBits rs ++ lowRegBits rd)
  | .tAsrR rs rd => .thumb (0b0100000100#10 ++ lowRegBits rs ++ lowRegBits rd)
  | .tAdc rs rd => .thumb (0b0100000101#10 ++ lowRegBits rs ++ lowRegBits rd)
  | .tSbc rs rd => .thumb (0b0100000110#10 ++ lowRegBits rs ++ lowRegBits rd)
  | .tRorR rs rd => .thumb (0b0100000111#10 ++ lowRegBits rs ++ lowRegBits rd)
  | .tTst rs rd => .thumb (0b0100001000#10 ++ lowRegBits rs ++ lowRegBits rd)
  | .tNeg rs rd => .thumb (0b0100001001#10 ++ lowRegBits rs ++ lowRegBits rd)
  | .tCmpR rs rd => .thumb (0b0100001010#10 ++ lowRegBits rs ++ lowRegBits rd)
  | .tCmn rs rd => .thumb (0b0100001011#10 ++ lowRegBits rs ++ lowRegBits rd)
  | .tOrr rs rd => .thumb (0b0100001100#10 ++ lowRegBits rs ++ lowRegBits rd)
  | .tMul rs rd => .thumb (0b0100001101#10 ++ lowRegBits rs ++ lowRegBits rd)
  | .tBic rs rd => .thumb (0b0100001110#10 ++ lowRegBits rs ++ lowRegBits rd)
  | .tMvn rs rd => .thumb (0b0100001111#10 ++ lowRegBits rs ++ lowRegBits rd)
  | .tAddHi rs rd => .thumb (0b01000100#8 ++ highBit rd ++ highBit rs ++ lowBits rs ++ lowBits rd)
  | .tCmpHi rs rd => .thumb (0b01000101#8 ++ highBit rd ++ highBit rs ++ lowBits rs ++ lowBits rd)
  | .tMovHi rs rd => .thumb (0b01000110#8 ++ highBit rd ++ highBit rs ++ lowBits rs ++ lowBits rd)
  | .tBx rs => .thumb (0b010001110#9 ++ highBit rs ++ lowBits rs ++ 0b000#3)
  | .tLdrPc rd word8 => .thumb (0b01001#5 ++ lowRegBits rd ++ word8)
  | .tStrR ro rb rd => .thumb (0b0101000#7 ++ lowRegBits ro ++ lowRegBits rb ++ lowRegBits rd)
  | .tStrbR ro rb rd => .thumb (0b0101010#7 ++ lowRegBits ro ++ lowRegBits rb ++ lowRegBits rd)
  | .tLdrR ro rb rd => .thumb (0b0101100#7 ++ lowRegBits ro ++ lowRegBits rb ++ lowRegBits rd)
  | .tLdrbR ro rb rd => .thumb (0b0101110#7 ++ lowRegBits ro ++ lowRegBits rb ++ lowRegBits rd)
  | .tStrhR ro rb rd => .thumb (0b0101001#7 ++ lowRegBits ro ++ lowRegBits rb ++ lowRegBits rd)
  | .tLdsbR ro rb rd => .thumb (0b0101011#7 ++ lowRegBits ro ++ lowRegBits rb ++ lowRegBits rd)
  | .tLdrhR ro rb rd => .thumb (0b0101101#7 ++ lowRegBits ro ++ lowRegBits rb ++ lowRegBits rd)
  | .tLdshR ro rb rd => .thumb (0b0101111#7 ++ lowRegBits ro ++ lowRegBits rb ++ lowRegBits rd)
  | .tStrI offset5 rb rd => .thumb (0b01100#5 ++ offset5 ++ lowRegBits rb ++ lowRegBits rd)
  | .tLdrI offset5 rb rd => .thumb (0b01101#5 ++ offset5 ++ lowRegBits rb ++ lowRegBits rd)
  | .tStrbI offset5 rb rd => .thumb (0b01110#5 ++ offset5 ++ lowRegBits rb ++ lowRegBits rd)
  | .tLdrbI offset5 rb rd => .thumb (0b01111#5 ++ offset5 ++ lowRegBits rb ++ lowRegBits rd)
  | .tStrhI offset5 rb rd => .thumb (0b10000#5 ++ offset5 ++ lowRegBits rb ++ lowRegBits rd)
  | .tLdrhI offset5 rb rd => .thumb (0b10001#5 ++ offset5 ++ lowRegBits rb ++ lowRegBits rd)
  | .tStrSp rd word8 => .thumb (0b10010#5 ++ lowRegBits rd ++ word8)
  | .tLdrSp rd word8 => .thumb (0b10011#5 ++ lowRegBits rd ++ word8)
  | .tAddPc rd word8 => .thumb (0b10100#5 ++ lowRegBits rd ++ word8)
  | .tAddSp rd word8 => .thumb (0b10101#5 ++ lowRegBits rd ++ word8)
  | .tSpAdd sword7 => .thumb (0b101100000#9 ++ sword7)
  | .tSpSub sword7 => .thumb (0b101100001#9 ++ sword7)
  | .tPush r rlist => .thumb (0b1011010#7 ++ BitVec.ofBool r ++ rlist)
  | .tPop r rlist => .thumb (0b1011110#7 ++ BitVec.ofBool r ++ rlist)
  | .tStmia rb rlist => .thumb (0b11000#5 ++ lowRegBits rb ++ rlist)
  | .tLdmia rb rlist => .thumb (0b11001#5 ++ lowRegBits rb ++ rlist)
  | .tBeq soffset8 => .thumb (0b11010000#8 ++ soffset8)
  | .tBne soffset8 => .thumb (0b11010001#8 ++ soffset8)
  | .tBcs soffset8 => .thumb (0b11010010#8 ++ soffset8)
  | .tBcc soffset8 => .thumb (0b11010011#8 ++ soffset8)
  | .tBmi soffset8 => .thumb (0b11010100#8 ++ soffset8)
  | .tBpl soffset8 => .thumb (0b11010101#8 ++ soffset8)
  | .tBvs soffset8 => .thumb (0b11010110#8 ++ soffset8)
  | .tBvc soffset8 => .thumb (0b11010111#8 ++ soffset8)
  | .tBhi soffset8 => .thumb (0b11011000#8 ++ soffset8)
  | .tBls soffset8 => .thumb (0b11011001#8 ++ soffset8)
  | .tBge soffset8 => .thumb (0b11011010#8 ++ soffset8)
  | .tBlt soffset8 => .thumb (0b11011011#8 ++ soffset8)
  | .tBgt soffset8 => .thumb (0b11011100#8 ++ soffset8)
  | .tBle soffset8 => .thumb (0b11011101#8 ++ soffset8)
  | .tUndefined imm8 => .thumb (0b11011110#8 ++ imm8)
  | .tSwi value8 => .thumb (0b11011111#8 ++ value8)
  | .tB offset11 => .thumb (0b11100#5 ++ offset11)
  | .tBlFirst offset11 => .thumb (0b11110#5 ++ offset11)
  | .tBlSecond offset11 => .thumb (0b11111#5 ++ offset11)

/-- The `n` bytes of a word's bits as the hardware stores them, lowest address first (R63). -/
def layoutBytes (n w : Nat) : List Byte :=
  (List.range n).map (fun k => BitVec.ofNat 8 (w >>> (8 * k)))

/-- The instruction this decoder reads from the bits `w` of a row to which the table gives `nbits` bits: a THUMB halfword
for 16, an ARM word for 32 (R90), in the machine of `Config.params`. -/
def decodeTableWord (nbits w : Nat) : Option Instr :=
  let thumb := decide (nbits ≤ 16)
  match decodeBytes Config.params.v4tExtras thumb (layoutBytes (if thumb then 2 else 4) w) with
  | .ok (i, _) => some i
  | .error _ => none

end Sys2Proof
end

