-- ==== Sys2Proof/Machine/State.lean ====
section
/-! DEFINITION. The state of the core as plain data (R20), with what the environment holds for it (R60, R240), the reasons a
step can stop (R40, R330), and the state after reset (R45). -/
namespace Sys2Proof.Machine

/-! ### Modes and banks -/

/-- The seven modes (R36, R340). -/
inductive Mode where
  | usr | fiq | irq | svc | abt | und | sys
deriving DecidableEq, Repr

/-- The six banks of R13 and R14 (R21); System shares the User bank. -/
inductive Bank where
  | usr | fiq | svc | abt | irq | und
deriving DecidableEq, Repr

/-- The five modes that have an SPSR (R37): the modes an exception enters. -/
inductive ExcMode where
  | fiq | svc | abt | irq | und
deriving DecidableEq, Repr

/-- One value for each of the six banks (R21). -/
structure Banked (α : Type) where
  usr : α
  fiq : α
  svc : α
  abt : α
  irq : α
  und : α
deriving DecidableEq, Repr

/-- One value for each of the five SPSRs (R37). -/
structure Saved (α : Type) where
  fiq : α
  svc : α
  abt : α
  irq : α
  und : α
deriving DecidableEq, Repr

/-- A physical general register other than R15 (R21): R0 to R7, R8 to R12, R8_fiq to R12_fiq, and R13 and R14 of a bank. -/
inductive PhysReg where
  | low (i : Fin 8)
  | mid (i : Fin 5)
  | midFiq (i : Fin 5)
  | sp (b : Bank)
  | lr (b : Bank)
deriving DecidableEq, Repr

/-- The 30 physical general registers other than R15 (R20, R21). -/
structure Regs where
  /-- R0 to R7 -/
  low    : Vector Word 8
  /-- R8 to R12, seen in every mode but FIQ -/
  mid    : Vector Word 5
  /-- R8_fiq to R12_fiq -/
  midFiq : Vector Word 5
  /-- R13, one per bank -/
  sp     : Banked Word
  /-- R14, one per bank -/
  lr     : Banked Word
deriving DecidableEq, Repr

/-! ### Why a step stops -/

/-- The contract violations of R330. -/
inductive Violation where
  /-- a register index outside 0 to 15; it cannot arise, since register numbers are Fin 16 (R23) -/
  | badRegisterIndex
  /-- an instruction reads an SPSR that nothing has defined (R37) -/
  | undefinedSPSR
  /-- an instruction names the SPSR of User or System mode (R37) -/
  | noSPSR
  /-- the bits decode as NoMatch (R111) -/
  | noMatchingOpcode
  /-- CPSR.M is, or would be made, none of the seven modes (R36) -/
  | illegalMode
  /-- a step starts with pc not aligned for CPSR.T (R29) -/
  | misalignedPC
  /-- an operand combination the architecture leaves UNPREDICTABLE (R112, section U of `93_implementation_defined.md`) -/
  | unpredictable
deriving DecidableEq, Repr

/-- The faults a step can end in. Both are safe: the model stops where the spec says the core stops (R40, R330). -/
inductive Fault where
  /-- raised by `step` in a state whose `halted` is set: a halted core has no step (R40). Safe. -/
  | halted (v : Violation)
  /-- raised by `step` and by a meaning on a contract violation (R330): the core halts, and the state it leaves is the one
  before the step with `halted` set (`State.afterStep`, log 11). Safe. -/
  | violation (v : Violation)
deriving DecidableEq, Repr

/-- The refusals of a step. -/
inductive Refusal where
  /-- the instruction has no meaning in this model yet; no instruction is refused so. Safe. -/
  | notModelled (mnemonic : String)
deriving DecidableEq, Repr

/-! ### What stands behind the two interfaces -/

/-- Storage of the Memory Interface: (address, byte) pairs in canonical form (`Memory.wf`), little-endian by address (R60,
R63). -/
abbrev Memory := List Host.Cell

/-- What answers at an address (R60, R70, R75; log 4): which requests complete (the others answer Fault), and whether a device
answers them. -/
structure RegionKind where
  /-- a fetch completes -/
  fetches  : Bool
  /-- a data read completes -/
  reads    : Bool
  /-- a write completes -/
  writes   : Bool
  /-- a device: a read answers any value, a write is recorded; else storage -/
  byDevice : Bool
deriving DecidableEq, Repr

namespace RegionKind

/-- Plain storage. -/
def storage : RegionKind := ⟨true, true, true, false⟩
/-- Storage that answers Fault to a write. -/
def readOnly : RegionKind := ⟨true, true, false, false⟩
/-- A device that completes every request. -/
def device : RegionKind := ⟨true, true, true, true⟩
/-- An out-of-range address: every request answers Fault. -/
def absent : RegionKind := ⟨false, false, false, false⟩

end RegionKind

/-- A window of the address space: the addresses base .. base + size - 1 (R71 leaves the map to the platform). -/
structure Region where
  base : Nat
  size : Nat
  kind : RegionKind
deriving DecidableEq, Repr

/-- A write that a device completed: its address, and its bytes, least significant first, as many as its width (R60). -/
structure DeviceWrite where
  address : Word
  bytes   : List Byte
deriving DecidableEq, Repr

/-- One answer of the Coprocessor Interface (R240, R241). -/
inductive CopAnswer where
  /-- no coprocessor accepts the instruction -/
  | absent
  /-- a coprocessor accepts it. The words are its data, at least one: MRC takes the first, STC stores all of them, LDC is
  told their number, CDP and MCR take none (log 8). -/
  | accepted (first : Word) (more : List Word)
deriving DecidableEq, Repr

/-- One request to the Coprocessor Interface, with the decoded fields it passes (R240). -/
inductive CopRequest where
  | execute (cp opc1 crn crd crm : BitVec 4) (opc2 : BitVec 3)
  | moveTo (cp : BitVec 4) (opc1 : BitVec 3) (crn crm : BitVec 4) (opc2 : BitVec 3) (value : Word)
  | moveFrom (cp : BitVec 4) (opc1 : BitVec 3) (crn crm : BitVec 4) (opc2 : BitVec 3)
  /-- LDC phase 1 -/
  | load (cp crd : BitVec 4) (n : Bool)
  /-- LDC phase 2: the words read -/
  | loadData (words : List Word)
  | store (cp crd : BitVec 4) (n : Bool)
deriving DecidableEq, Repr

/-! ### The state -/

/-- The state: the core's own (R20), then what stands behind its interfaces, then the model's own fields. -/
structure State where
  regs         : Regs
  /-- the physical R15; at a boundary the address of the next instruction (R27) -/
  pc           : Word
  cpsr         : Word
  spsr         : Saved Word
  spsrDef      : Saved Bool
  irqPending   : Bool
  fiqPending   : Bool
  resetPending : Bool
  halted       : Option Violation
  cycles       : Nat
  /-- storage of the Memory Interface -/
  mem          : Memory
  /-- the windows of the address space that are not plain storage; the first that contains an address says what it is -/
  regions      : List Region
  /-- the writes that devices completed, newest first (R60) -/
  deviceWrites : List DeviceWrite
  /-- the answers the Coprocessor Interface will give, oldest first -/
  copAnswers   : List CopAnswer
  /-- the requests made of it, newest first -/
  copRequests  : List CopRequest
  /-- the parameters of R4; no step changes them -/
  params       : Params
  /-- the number of the step, which indexes the free values (R10) -/
  draws        : Nat
deriving DecidableEq, Repr

/-- Every general register zero (R45). -/
def Regs.zero : Regs where
  low    := Vector.replicate 8 0x00000000#32
  mid    := Vector.replicate 5 0x00000000#32
  midFiq := Vector.replicate 5 0x00000000#32
  sp     := ⟨0x00000000#32, 0x00000000#32, 0x00000000#32, 0x00000000#32, 0x00000000#32, 0x00000000#32⟩
  lr     := ⟨0x00000000#32, 0x00000000#32, 0x00000000#32, 0x00000000#32, 0x00000000#32, 0x00000000#32⟩

/-- Construction (R45, R350 steps 1 and 2): a new core over the environment and the parameters of `env`, every item of R20
zero, and reset_pending set. -/
def State.construct (env : State) : State :=
  { env with
    regs := Regs.zero, pc := 0x00000000#32, cpsr := 0x00000000#32,
    spsr := ⟨0x00000000#32, 0x00000000#32, 0x00000000#32, 0x00000000#32, 0x00000000#32⟩,
    spsrDef := ⟨false, false, false, false, false⟩,
    irqPending := false, fiqPending := false, resetPending := true,
    halted := none, cycles := 0, draws := 0 }

/-- The machine right after power-on reset: the column "after power-on reset" of R45 (R350, R352), over an environment with
no window, no coprocessor and nothing written, and with the parameters of `Config.params` (log 1, 3, 4, 5, 7, 12). -/
def State.reset : State where
  regs         := Regs.zero
  pc           := Config.params.vectorBase
  cpsr         := 0x000000D3#32
  spsr         := ⟨0x00000000#32, 0x00000000#32, 0x00000000#32, 0x00000000#32, 0x00000000#32⟩
  spsrDef      := ⟨false, true, false, false, false⟩
  irqPending   := false
  fiqPending   := false
  resetPending := false
  halted       := none
  cycles       := Config.params.cycleInc
  mem          := []
  regions      := []
  deviceWrites := []
  copAnswers   := []
  copRequests  := []
  params       := Config.params
  draws        := 1

end Sys2Proof.Machine
end

