-- ==== Sys2Proof/Machine/Flags.lean ====
section
/-! DEFINITION. The status register layout (R30), the mode encodings (R36), the condition check (R92, R133), AddWithCarry (R9)
and every flag computation of the data-processing instructions (R152 to R169). -/
namespace Sys2Proof.Machine

/-! ### Bits of a status register (R30) -/

def psrN (p : Word) : Bool := p.getLsbD 31
def psrZ (p : Word) : Bool := p.getLsbD 30
def psrC (p : Word) : Bool := p.getLsbD 29
def psrV (p : Word) : Bool := p.getLsbD 28
def psrQ (p : Word) : Bool := p.getLsbD 27
/-- The reserved bits 26 to 8 (R33). -/
def psrReserved (p : Word) : BitVec 19 := p.extractLsb' 8 19
def psrI (p : Word) : Bool := p.getLsbD 7
def psrF (p : Word) : Bool := p.getLsbD 6
/-- The state bit: false = ARM, true = THUMB (R35). -/
def psrT (p : Word) : Bool := p.getLsbD 5
/-- The mode field (R36). -/
def psrM (p : Word) : BitVec 5 := p.extractLsb' 0 5

/-- `p` with the four condition flags replaced. -/
def setNZCV (p : Word) (n z c v : Bool) : Word :=
  BitVec.ofBool n ++ BitVec.ofBool z ++ BitVec.ofBool c ++ BitVec.ofBool v ++ p.extractLsb' 0 28

/-- forceStateChange (R35): `p` with the state bit replaced and no other bit. -/
def setT (p : Word) (t : Bool) : Word :=
  p.extractLsb' 6 26 ++ BitVec.ofBool t ++ p.extractLsb' 0 5

/-- `p` with the mode field replaced and no other bit: changeMode (R46). -/
def setM (p : Word) (m : BitVec 5) : Word :=
  p.extractLsb' 5 27 ++ m

/-- CPSR after an exception entry (R305 steps 3 to 5): the mode field, I forced to 1, F forced to 1 or left, T cleared; bits
31 to 8 stay. -/
def entryPsr (p : Word) (m : BitVec 5) (forceF : Bool) : Word :=
  p.extractLsb' 8 24 ++ 0b1#1 ++ BitVec.ofBool (forceF || psrF p) ++ 0b0#1 ++ m

/-! ### Modes (R36) -/

/-- The encoding of a mode in bits 4:0. -/
def Mode.bits : Mode → BitVec 5
  | .usr => 0b10000#5
  | .fiq => 0b10001#5
  | .irq => 0b10010#5
  | .svc => 0b10011#5
  | .abt => 0b10111#5
  | .und => 0b11011#5
  | .sys => 0b11111#5

/-- The mode of an encoding; none for the other 25 values (R36). -/
def Mode.ofBits (b : BitVec 5) : Option Mode :=
  match b.toNat with
  | 0b10000 => some .usr
  | 0b10001 => some .fiq
  | 0b10010 => some .irq
  | 0b10011 => some .svc
  | 0b10111 => some .abt
  | 0b11011 => some .und
  | 0b11111 => some .sys
  | _ => none

/-- The bank of R13 and R14 that a mode sees (R21, R23). -/
def Mode.bank : Mode → Bank
  | .usr => .usr
  | .sys => .usr
  | .fiq => .fiq
  | .svc => .svc
  | .abt => .abt
  | .irq => .irq
  | .und => .und

/-- The mode's SPSR; User and System have none (R37). -/
def Mode.saved : Mode → Option ExcMode
  | .usr => none
  | .sys => none
  | .fiq => some .fiq
  | .svc => some .svc
  | .abt => some .abt
  | .irq => some .irq
  | .und => some .und

/-- The mode that owns an SPSR (R37). -/
def ExcMode.mode : ExcMode → Mode
  | .fiq => .fiq
  | .svc => .svc
  | .abt => .abt
  | .irq => .irq
  | .und => .und

/-! ### The condition check (R92) -/

/-- ConditionPassed (R133): whether the condition passes under the flags of the status register `p`. -/
def condPassed (c : Cond) (p : Word) : Bool :=
  match c with
  | .eq => psrZ p
  | .ne => !psrZ p
  | .cs => psrC p
  | .cc => !psrC p
  | .mi => psrN p
  | .pl => !psrN p
  | .vs => psrV p
  | .vc => !psrV p
  | .hi => psrC p && !psrZ p
  | .ls => !psrC p || psrZ p
  | .ge => psrN p == psrV p
  | .lt => psrN p != psrV p
  | .gt => !psrZ p && psrN p == psrV p
  | .le => psrZ p || psrN p != psrV p
  | .al => true
  | .nv => false

/-! ### Results and flags -/

/-- What the shifter gives: a value and its carry-out (R151). -/
structure ShifterOut where
  value : Word
  carry : Bool
deriving DecidableEq, Repr

/-- What an arithmetic or logical computation gives: the result and the C and V flags it would write (R152). -/
structure AluResult where
  value : Word
  c     : Bool
  v     : Bool
deriving DecidableEq, Repr

/-- AddWithCarry (R9): the exact unsigned and signed sums, narrowed at the end. -/
def addWithCarry (a b : Word) (cin : Bool) : AluResult :=
  let usum := a.toNat + b.toNat + cin.toNat
  let ssum := a.toInt + b.toInt + (cin.toNat : Int)
  let r := BitVec.ofNat 32 usum
  ⟨r, decide (2 ^ 32 ≤ usum), decide (ssum ≠ r.toInt)⟩

/-- The logical class (R152): C is the shifter carry-out and V stays. -/
def logical (p : Word) (value : Word) (sc : Bool) : AluResult := ⟨value, sc, psrV p⟩

/-- The status register after a flag-setting computation (R152): N, Z, C, V replaced and no other bit. -/
def AluResult.flags (r : AluResult) (p : Word) : Word :=
  setNZCV p (r.value.getLsbD 31) (r.value == 0x00000000#32) r.c r.v

/-! The sixteen computations, each over the status register, `a` = x[Rn] and the shifter operand (R154 to R169). -/

def aluAnd (p a : Word) (o : ShifterOut) : AluResult := logical p (a &&& o.value) o.carry
def aluEor (p a : Word) (o : ShifterOut) : AluResult := logical p (a ^^^ o.value) o.carry
def aluSub (_p a : Word) (o : ShifterOut) : AluResult := addWithCarry a (~~~o.value) true
def aluRsb (_p a : Word) (o : ShifterOut) : AluResult := addWithCarry o.value (~~~a) true
def aluAdd (_p a : Word) (o : ShifterOut) : AluResult := addWithCarry a o.value false
def aluAdc (p a : Word) (o : ShifterOut) : AluResult := addWithCarry a o.value (psrC p)
def aluSbc (p a : Word) (o : ShifterOut) : AluResult := addWithCarry a (~~~o.value) (psrC p)
def aluRsc (p a : Word) (o : ShifterOut) : AluResult := addWithCarry o.value (~~~a) (psrC p)
def aluOrr (p a : Word) (o : ShifterOut) : AluResult := logical p (a ||| o.value) o.carry
/-- MOV does not read Rn (R167). -/
def aluMov (p : Word) (o : ShifterOut) : AluResult := logical p o.value o.carry
def aluBic (p a : Word) (o : ShifterOut) : AluResult := logical p (a &&& ~~~o.value) o.carry
/-- MVN does not read Rn (R169). -/
def aluMvn (p : Word) (o : ShifterOut) : AluResult := logical p (~~~o.value) o.carry

/-- An operand that is an unshifted value: its carry-out is the old C (R95, R255). -/
def plainOperand (p : Word) (value : Word) : ShifterOut := ⟨value, psrC p⟩

end Sys2Proof.Machine
end

