-- ==== Sys2Proof/Machine/Ops.lean ====
section
/-! DEFINITION. The shared operations on registers (R21 to R29), status registers (R30 to R38), memory (R60 to R79), the
coprocessor interface (R240), and taking an exception and returning from one (R300 to R306, R38). -/
namespace Sys2Proof.Machine

/-- What a step or a meaning answers. -/
abbrev Result := Host.Outcome State Fault Refusal

/-- violation(V) (R8, R330): the step ends, and no part of it is kept. -/
def violation (v : Violation) : Result := .fault (.violation v)

/-! ### Values held per bank -/

def Banked.get {α : Type} (b : Banked α) : Bank → α
  | .usr => b.usr
  | .fiq => b.fiq
  | .svc => b.svc
  | .abt => b.abt
  | .irq => b.irq
  | .und => b.und

def Banked.set {α : Type} (b : Banked α) (i : Bank) (v : α) : Banked α :=
  match i with
  | .usr => { b with usr := v }
  | .fiq => { b with fiq := v }
  | .svc => { b with svc := v }
  | .abt => { b with abt := v }
  | .irq => { b with irq := v }
  | .und => { b with und := v }

def Saved.get {α : Type} (b : Saved α) : ExcMode → α
  | .fiq => b.fiq
  | .svc => b.svc
  | .abt => b.abt
  | .irq => b.irq
  | .und => b.und

def Saved.set {α : Type} (b : Saved α) (i : ExcMode) (v : α) : Saved α :=
  match i with
  | .fiq => { b with fiq := v }
  | .svc => { b with svc := v }
  | .abt => { b with abt := v }
  | .irq => { b with irq := v }
  | .und => { b with und := v }

/-! ### General registers -/

/-- Bank resolution (R23): the physical register that R`r` denotes in mode `m`; none for R15, which is `pc`. -/
def phys (m : Mode) (r : Reg) : Option PhysReg :=
  if h : r.val < 8 then some (.low ⟨r.val, h⟩)
  else if h' : r.val < 13 then
    let i : Fin 5 := ⟨r.val - 8, by omega⟩
    some (if m = .fiq then .midFiq i else .mid i)
  else if r.val = 13 then some (.sp m.bank)
  else if r.val = 14 then some (.lr m.bank)
  else none

def Regs.get (g : Regs) : PhysReg → Word
  | .low i => g.low[i]
  | .mid i => g.mid[i]
  | .midFiq i => g.midFiq[i]
  | .sp b => g.sp.get b
  | .lr b => g.lr.get b

def Regs.set (g : Regs) (p : PhysReg) (v : Word) : Regs :=
  match p with
  | .low i => { g with low := g.low.set i v }
  | .mid i => { g with mid := g.mid.set i v }
  | .midFiq i => { g with midFiq := g.midFiq.set i v }
  | .sp b => { g with sp := g.sp.set b v }
  | .lr b => { g with lr := g.lr.set b v }

namespace State

/-- The mode of CPSR.M, none when it is illegal (R36). -/
def mode? (s : State) : Option Mode := Mode.ofBits (psrM s.cpsr)

/-- ISZ: the size of the instruction at pc, by the state bit alone (R90, R131). -/
def isz (s : State) : Word := if psrT s.cpsr then 2#32 else 4#32

/-- The physical register `p`. -/
def getPhys (s : State) (p : PhysReg) : Word := s.regs.get p
def setPhys (s : State) (p : PhysReg) (v : Word) : State := { s with regs := s.regs.set p v }

def setPc (s : State) (v : Word) : State := { s with pc := v }
def setCpsr (s : State) (v : Word) : State := { s with cpsr := v }

/-- The instruction falls through: pc <- CUR + ISZ modulo 2^32 (R28, R136). -/
def advance (s : State) : State := s.setPc (s.pc + s.isz)

/-- BranchWritePC (R135): the low bits are dropped by the state the instruction leaves the core in. -/
def branchWritePC (s : State) (v : Word) : State :=
  s.setPc (if psrT s.cpsr then v &&& 0xFFFFFFFE#32 else v &&& 0xFFFFFFFC#32)

/-- xb[m][r] with `pcValue` for R15 (R6, R23). -/
def regOr (s : State) (m : Mode) (r : Reg) (pcValue : Word) : Word :=
  match phys m r with
  | some p => s.getPhys p
  | none => pcValue

/-- The value an instruction reads from R15 as an ordinary operand: CUR + 8 in ARM state, CUR + 4 in THUMB state (R134). -/
def pcOperand (s : State) : Word := if psrT s.cpsr then s.pc + 4#32 else s.pc + 8#32

/-- x[r] as an operand in mode `m` (R6, R134). -/
def x (s : State) (m : Mode) (r : Reg) : Word := s.regOr m r s.pcOperand

/-- x[r] where R15 reads CUR + 12: Rn and Rm of a shift by register, a stored register, the value sent by MCR (R134). -/
def xLate (s : State) (m : Mode) (r : Reg) : Word := s.regOr m r (s.pc + 12#32)

/-- The base of THUMB formats 6 and 12: (CUR + 4) AND 0xFFFFFFFD (R134). -/
def pcBase (s : State) : Word := (s.pc + 4#32) &&& 0xFFFFFFFD#32

/-- x[r] <- v in mode `m`; a write of R15 is a branch (R6). -/
def writeReg (s : State) (m : Mode) (r : Reg) (v : Word) : State :=
  match phys m r with
  | some p => s.setPhys p v
  | none => s.branchWritePC v

/-- x[r] <- v as the last effect of an instruction: a write of R15 is the branch, any other falls through (R28, R135). -/
def writeDest (s : State) (m : Mode) (r : Reg) (v : Word) : State :=
  if r = Reg.pc then s.branchWritePC v else (s.writeReg m r v).advance

/-! ### Status registers -/

def setSpsr (s : State) (e : ExcMode) (v : Word) : State := { s with spsr := s.spsr.set e v }
def defineSpsr (s : State) (e : ExcMode) : State := { s with spsrDef := s.spsrDef.set e true }

/-- The SPSR of mode `m` as an instruction reads it (R37): NoSPSR in User and System, UndefinedSPSR before its first
definition. -/
def readSpsr (s : State) (m : Mode) : Except Violation Word :=
  match m.saved with
  | none => .error .noSPSR
  | some e => if s.spsrDef.get e then .ok (s.spsr.get e) else .error .undefinedSPSR

/-- restoreFromSPSR (R38): the CPSR that an exception return in mode `m` restores, or its violation. -/
def returnPsr (s : State) (m : Mode) : Except Violation Word :=
  match s.readSpsr m with
  | .error v => .error v
  | .ok p => if (Mode.ofBits (psrM p)).isSome then .ok p else .error .illegalMode

end State

/-! ### Taking an exception (R300 to R306) -/

/-- The eight exception kinds (R300). -/
inductive ExcKind where
  | reset | undefinedInstruction | softwareInterrupt | prefetchAbort | dataAbort | addressExceeds26Bit
  | normalInterrupt | fastInterrupt
deriving DecidableEq, Repr

/-- The target mode (R301). -/
def ExcKind.target : ExcKind → ExcMode
  | .reset => .svc
  | .undefinedInstruction => .und
  | .softwareInterrupt => .svc
  | .prefetchAbort => .abt
  | .dataAbort => .abt
  | .addressExceeds26Bit => .svc
  | .normalInterrupt => .irq
  | .fastInterrupt => .fiq

/-- The vector offset (R301). -/
def ExcKind.offset : ExcKind → Word
  | .reset => 0x00#32
  | .undefinedInstruction => 0x04#32
  | .softwareInterrupt => 0x08#32
  | .prefetchAbort => 0x0C#32
  | .dataAbort => 0x10#32
  | .addressExceeds26Bit => 0x14#32
  | .normalInterrupt => 0x18#32
  | .fastInterrupt => 0x1C#32

/-- Whether the entry forces F to 1 (R301): Reset and FastInterrupt only. -/
def ExcKind.forcesF : ExcKind → Bool
  | .reset => true
  | .fastInterrupt => true
  | .undefinedInstruction => false
  | .softwareInterrupt => false
  | .prefetchAbort => false
  | .dataAbort => false
  | .addressExceeds26Bit => false
  | .normalInterrupt => false

/-- The place in the priority order of R302, 0 the highest. -/
def ExcKind.rank : ExcKind → Nat
  | .reset => 0
  | .dataAbort => 1
  | .fastInterrupt => 2
  | .normalInterrupt => 3
  | .prefetchAbort => 4
  | .softwareInterrupt => 5
  | .addressExceeds26Bit => 6
  | .undefinedInstruction => 7

namespace State

/-- ReturnAddress(K, A) (R306), from the state before the entry. -/
def returnAddress (s : State) (k : ExcKind) (a : Word) : Word :=
  match k with
  | .softwareInterrupt => a + s.isz
  | .undefinedInstruction => a + s.isz
  | .prefetchAbort =>
    if psrT s.cpsr then
      match s.params.pabtThumbLr with
      | .next => a + 2#32
      | .plus4 => a + 4#32
    else a + 4#32
  | .dataAbort => a + 8#32
  | .normalInterrupt => a + 4#32
  | .fastInterrupt => a + 4#32
  | .reset => a
  | .addressExceeds26Bit => a + 4#32

/-- raise K(A) (R305): SPSR of the target mode <- CPSR and defined, then the mode, I, F and T bits of CPSR, R14 of the target
mode <- the return address, pc <- the vector. Nothing else changes. -/
def raise (s : State) (k : ExcKind) (a : Word) : State :=
  let e := k.target
  (((((s.setSpsr e s.cpsr).defineSpsr e).setCpsr (entryPsr s.cpsr e.mode.bits k.forcesF)).setPhys
    (.lr e.mode.bank) (s.returnAddress k a)).setPc (s.params.vectorBase + k.offset))

end State

/-- An exception return that jumps to `v` (R153): CPSR from the SPSR of mode `m`, then BranchWritePC by the restored T. -/
def exceptionReturn (s : State) (m : Mode) (v : Word) : Result :=
  match s.returnPsr m with
  | .error viol => violation viol
  | .ok p => .next ((s.setCpsr p).branchWritePC v)

/-! ### Storage (R60, R63) -/

namespace Memory

/-- The byte at an address; an unlisted address reads as `Config.unlistedByte`. -/
def read : Memory → Nat → Byte
  | [], _ => Config.unlistedByte
  | (a, b) :: rest, n => if n = a then b else read rest n

/-- A byte is stored; writing what an unlisted address reads as removes the entry. -/
def write : Memory → Nat → Byte → Memory
  | [], n, v => if v = Config.unlistedByte then [] else [(n, v)]
  | (a, b) :: rest, n, v =>
    if n < a then
      if v = Config.unlistedByte then (a, b) :: rest else (n, v) :: (a, b) :: rest
    else if n = a then
      if v = Config.unlistedByte then rest else (n, v) :: rest
    else (a, b) :: write rest n v

/-- The canonical form from address `lo` on: addresses strictly rising, below 2^32, no entry an unlisted address reads as. -/
def wfFrom : Nat → Memory → Bool
  | _, [] => true
  | lo, (a, b) :: rest =>
    decide (lo ≤ a) && decide (a < 2 ^ 32) && decide (b ≠ Config.unlistedByte) && wfFrom (a + 1) rest

/-- The canonical form of a memory: equal memories are equal lists. -/
def wf (mem : Memory) : Bool := wfFrom 0 mem

/-- The byte at address `a`, little-endian part `k` of an access at `a` (R63), addresses modulo 2^32 (R61). -/
def byteAt (mem : Memory) (a : Word) (k : Nat) : Byte := mem.read (a + BitVec.ofNat 32 k).toNat

def readHalf (mem : Memory) (a : Word) : Half := mem.byteAt a 1 ++ mem.byteAt a 0

def readWord (mem : Memory) (a : Word) : Word :=
  mem.byteAt a 3 ++ mem.byteAt a 2 ++ mem.byteAt a 1 ++ mem.byteAt a 0

/-- Bytes are stored at `a`, `a + 1`, …, modulo 2^32. -/
def writeBytes : Memory → Word → List Byte → Memory
  | mem, _, [] => mem
  | mem, a, b :: bs => writeBytes (mem.write a.toNat b) (a + 1#32) bs

end Memory

/-- The bytes of a word, least significant first (R63). -/
def wordBytes (v : Word) : List Byte :=
  [v.extractLsb' 0 8, v.extractLsb' 8 8, v.extractLsb' 16 8, v.extractLsb' 24 8]

/-- The bytes of a halfword, least significant first (R63). -/
def halfBytes (v : Half) : List Byte := [v.extractLsb' 0 8, v.extractLsb' 8 8]

/-- Whether a window contains an address. -/
def Region.contains (g : Region) (a : Word) : Bool :=
  decide (g.base ≤ a.toNat) && decide (a.toNat < g.base + g.size)

/-! ### The Memory Interface (R60): a value or Fault; one request, judged at its address -/

namespace State

/-- What answers at an address: the first window that contains it, plain storage where none does. -/
def regionAt (s : State) (a : Word) : RegionKind :=
  match s.regions.find? (fun g => g.contains a) with
  | none => .storage
  | some g => g.kind

/-- Whether a read at an address completes: a fetch, or a data read. -/
def answers (s : State) (fetch : Bool) (a : Word) : Bool :=
  if fetch then (s.regionAt a).fetches else (s.regionAt a).reads

/-- Whether a write at an address completes. -/
def accepts (s : State) (a : Word) : Bool := (s.regionAt a).writes

/-- Whether a device answers at an address. -/
def isDevice (s : State) (a : Word) : Bool := (s.regionAt a).byDevice

/-- MemRead(a, n) (R60): Fault (none), the low bits of what a device answers, or what storage holds. -/
def memRead {w : Nat} (s : State) (fetch : Bool) (a : Word) (stored : BitVec w) : Option (BitVec w) :=
  if s.answers fetch a then
    some (if s.isDevice a then (Config.deviceValue s.draws fetch a).setWidth w else stored)
  else none

/-- MemRead(a, 4); none is Fault. -/
def memReadWord (s : State) (fetch : Bool) (a : Word) : Option Word := s.memRead fetch a (s.mem.readWord a)

/-- MemRead(a, 2); none is Fault. -/
def memReadHalf (s : State) (fetch : Bool) (a : Word) : Option Half := s.memRead fetch a (s.mem.readHalf a)

/-- MemRead(a, 1); none is Fault. -/
def memReadByte (s : State) (a : Word) : Option Byte := s.memRead false a (s.mem.byteAt a 0)

/-- MemWrite(a, n, v) with the bytes of v, least significant first; none is Fault. A device records the write, storage takes
the bytes (R60). -/
def memWrite (s : State) (a : Word) (bytes : List Byte) : Option State :=
  if s.accepts a then
    some (if s.isDevice a then { s with deviceWrites := ⟨a, bytes⟩ :: s.deviceWrites }
          else { s with mem := s.mem.writeBytes a bytes })
  else none

/-! Data accesses (R65). A misaligned word access that MISALIGN = refuse forbids is tested before (`wordRefused`). -/

/-- MISALIGN = refuse makes a word access at this address a violation (R65). -/
def wordRefused (s : State) (a : Word) : Bool :=
  decide (s.params.misalign = .refuse) && decide (a.extractLsb' 0 2 ≠ 0b00#2)

/-- LoadWord: the aligned word, rotated right by 8 times the low two address bits. -/
def loadWord (s : State) (a : Word) : Option Word :=
  (s.memReadWord false (a &&& 0xFFFFFFFC#32)).map (fun w => w.rotateRight (8 * (a.extractLsb' 0 2).toNat))

/-- StoreWord: the low two address bits are ignored. -/
def storeWord (s : State) (a v : Word) : Option State := s.memWrite (a &&& 0xFFFFFFFC#32) (wordBytes v)

def storeHalf (s : State) (a v : Word) : Option State := s.memWrite a (halfBytes (v.extractLsb' 0 16))

def storeByte (s : State) (a v : Word) : Option State := s.memWrite a [v.extractLsb' 0 8]

/-- LoadByte, zero-extended. -/
def loadByte (s : State) (a : Word) : Option Word := (s.memReadByte a).map (fun b => b.setWidth 32)

/-- LoadByte, sign-extended. -/
def loadSignedByte (s : State) (a : Word) : Option Word := (s.memReadByte a).map (fun b => b.signExtend 32)

/-- LoadHalf, zero-extended. -/
def loadHalf (s : State) (a : Word) : Option Word := (s.memReadHalf false a).map (fun h => h.setWidth 32)

/-- LoadHalf, sign-extended. -/
def loadSignedHalf (s : State) (a : Word) : Option Word := (s.memReadHalf false a).map (fun h => h.signExtend 32)

/-! ### Transfers of several words, ascending (R79, R202) -/

/-- The words at the addresses, in order, up to the first that faults: the words read, and whether one faulted. -/
def readWords (s : State) : List Word → List Word × Bool
  | [] => ([], false)
  | a :: rest =>
    match s.memReadWord false a with
    | none => ([], true)
    | some w =>
      let r := s.readWords rest
      (w :: r.1, r.2)

/-- The words are written at the addresses, in order, up to the first that faults: the state left, and whether one
faulted. -/
def writeWords (s : State) : List (Word × Word) → State × Bool
  | [] => (s, false)
  | (a, v) :: rest =>
    match s.memWrite a (wordBytes v) with
    | none => (s, true)
    | some s' => s'.writeWords rest

/-- x[i] <- v for each pair, in order; R15 is left to the caller (R203). -/
def writeRegs (s : State) (m : Mode) : List (Reg × Word) → State
  | [] => s
  | (r, v) :: rest =>
    match phys m r with
    | some p => (s.setPhys p v).writeRegs m rest
    | none => s.writeRegs m rest

/-! ### The Coprocessor Interface (R240, R241) -/

/-- The answer to the next request: Absent when none is listed (R241's default). -/
def copAnswer (s : State) : CopAnswer := s.copAnswers.headD .absent

/-- A request is made: it is recorded, and its answer is used up. -/
def copAsk (s : State) (q : CopRequest) : State :=
  { s with copAnswers := s.copAnswers.tail, copRequests := q :: s.copRequests }

/-- A request that has no answer of its own: phase 2 of LDC (R245). -/
def copTell (s : State) (q : CopRequest) : State := { s with copRequests := q :: s.copRequests }

end State

/-! ### The frame of an instruction (R130 steps 3, 7, 8) -/

/-- An ARM instruction with its condition field: the body runs in the current mode when the condition passes; else only pc
advances (R133). A mode field that is no mode is violation(IllegalMode) (log 13). -/
def armInstr (c : Cond) (s : State) (body : Mode → Result) : Result :=
  match s.mode? with
  | none => violation .illegalMode
  | some m => if condPassed c s.cpsr then body m else .next s.advance

/-- A THUMB instruction: always executes (R133). -/
def thumbInstr (s : State) (body : Mode → Result) : Result :=
  match s.mode? with
  | none => violation .illegalMode
  | some m => body m

end Sys2Proof.Machine
end

