-- ==== Sys2Proof/Machine/Operands.lean ====
section
/-! DEFINITION. Every operand form: the shifter (R95, R96, R151), the addressing modes of single, halfword, block and
coprocessor transfers (R190, R199, R201, R245), the operand combinations that are violation(Unpredictable) (R112, section U of
`93_implementation_defined.md`), and the shared endings of loads, stores and block transfers with their aborts (R210). -/
namespace Sys2Proof.Machine

/-- A low register as a logical register (R251). -/
def loReg (r : LowReg) : Reg := ⟨r.val, by omega⟩

/-! ### The shifter (R151) -/

/-- The immediate form DPI (R95): `c` is the old C. -/
def shifterImm (rot : BitVec 4) (imm8 : BitVec 8) (c : Bool) : ShifterOut :=
  let v := (imm8.setWidth 32 : Word).rotateRight (2 * rot.toNat)
  ⟨v, if rot = 0b0000#4 then c else v.getLsbD 31⟩

/-- The form DPR, a shift by an immediate amount 0 to 31; amount 0 has the special meanings of R151. -/
def shiftByImm (ty : ShiftType) (n : Nat) (m : Word) (c : Bool) : ShifterOut :=
  match ty with
  | .lsl => if n = 0 then ⟨m, c⟩ else ⟨m <<< n, m.getLsbD (32 - n)⟩
  | .lsr => if n = 0 then ⟨0x00000000#32, m.getLsbD 31⟩ else ⟨m >>> n, m.getLsbD (n - 1)⟩
  | .asr =>
    if n = 0 then ⟨if m.getLsbD 31 then 0xFFFFFFFF#32 else 0x00000000#32, m.getLsbD 31⟩
    else ⟨m.sshiftRight n, m.getLsbD (n - 1)⟩
  | .ror =>
    if n = 0 then ⟨BitVec.ofBool c ++ m.extractLsb' 1 31, m.getLsbD 0⟩
    else ⟨m.rotateRight n, m.getLsbD (n - 1)⟩

/-- The form DPS, a shift by a register amount 0 to 255 (R151). -/
def shiftByReg (ty : ShiftType) (n : Nat) (m : Word) (c : Bool) : ShifterOut :=
  match ty with
  | .lsl =>
    if n = 0 then ⟨m, c⟩
    else if n ≤ 31 then ⟨m <<< n, m.getLsbD (32 - n)⟩
    else if n = 32 then ⟨0x00000000#32, m.getLsbD 0⟩
    else ⟨0x00000000#32, false⟩
  | .lsr =>
    if n = 0 then ⟨m, c⟩
    else if n ≤ 31 then ⟨m >>> n, m.getLsbD (n - 1)⟩
    else if n = 32 then ⟨0x00000000#32, m.getLsbD 31⟩
    else ⟨0x00000000#32, false⟩
  | .asr =>
    if n = 0 then ⟨m, c⟩
    else if n ≤ 31 then ⟨m.sshiftRight n, m.getLsbD (n - 1)⟩
    else ⟨if m.getLsbD 31 then 0xFFFFFFFF#32 else 0x00000000#32, m.getLsbD 31⟩
  | .ror =>
    if n = 0 then ⟨m, c⟩
    else
      let k := n % 32
      if k = 0 then ⟨m, m.getLsbD 31⟩ else ⟨m.rotateRight k, m.getLsbD (k - 1)⟩

/-- The shift amount of a register: its low byte (R151). -/
def shiftAmount (v : Word) : Nat := (v.extractLsb' 0 8).toNat

namespace State

/-- Shifter operand DPI. -/
def operandImm (s : State) (rot : BitVec 4) (imm8 : BitVec 8) : ShifterOut := shifterImm rot imm8 (psrC s.cpsr)

/-- Shifter operand DPR: R15 as Rm reads CUR + 8. -/
def operandReg (s : State) (m : Mode) (amount : BitVec 5) (ty : ShiftType) (rm : Reg) : ShifterOut :=
  shiftByImm ty amount.toNat (s.x m rm) (psrC s.cpsr)

/-- Shifter operand DPS: R15 as Rm reads CUR + 12. -/
def operandShifted (s : State) (m : Mode) (rs : Reg) (ty : ShiftType) (rm : Reg) : ShifterOut :=
  shiftByReg ty (shiftAmount (s.x m rs)) (s.xLate m rm) (psrC s.cpsr)

end State

/-- Form DPS with a destination: Rd = 15 or Rs = 15, which R151 calls UNPREDICTABLE and gives no value (D31, U4; log 14). -/
def shiftedClash (rd rs : Reg) : Bool := rd == Reg.pc || rs == Reg.pc

/-! ### The endings of a data-processing instruction (R150, R152, R153) -/

/-- An instruction that writes a result: R15 as destination is a branch, or with S the exception return; else Rd, and with
S the flags. -/
def writeResult (m : Mode) (sf : Bool) (rd : Reg) (r : AluResult) (s : State) : Result :=
  if rd = Reg.pc then
    if sf then exceptionReturn s m r.value else .next (s.branchWritePC r.value)
  else
    let s1 := s.writeReg m rd r.value
    .next (if sf then s1.setCpsr (r.flags s.cpsr) else s1).advance

/-- A compare: the flags only. -/
def writeFlags (r : AluResult) (s : State) : Result := .next (s.setCpsr (r.flags s.cpsr)).advance

/-! ### Addressing of single transfers (R190, R199) -/

/-- An access address and the write-back of the base, if there is one. -/
structure Address where
  address   : Word
  writeBack : Option (Reg × Word)
deriving DecidableEq, Repr

/-- An address without write-back. -/
def Address.plain (a : Word) : Address := ⟨a, none⟩

/-- P, U, W addressing (R190): pre-indexed with P, post-indexed without, which always writes back. -/
def indexedAddress (p u w : Bool) (rn : Reg) (base offset : Word) : Address :=
  let target := if u then base + offset else base - offset
  if p then ⟨target, if w then some (rn, target) else none⟩ else ⟨base, some (rn, target)⟩

/-- The write-back of a base register is performed. -/
def State.applyWriteBack (s : State) (m : Mode) (ad : Address) : State :=
  match ad.writeBack with
  | none => s
  | some (rn, v) => s.writeReg m rn v

/-- Write-back with Rn = 15 or Rn = Rd (R190, U6). -/
def writeBackClash (p w : Bool) (rn rd : Reg) : Bool := (!p || w) && (rn == Reg.pc || rn == rd)

/-- Register offset: Rm = 15, or post-indexed with Rm = Rn (R190, U6). -/
def offsetClash (p : Bool) (rn rm : Reg) : Bool := rm == Reg.pc || (!p && rm == rn)

/-- Halfword format: P = 0 with W = 1, or Rd = 15 (R195 to R199, U6). -/
def halfClash (p w : Bool) (rd : Reg) : Bool := (!p && w) || rd == Reg.pc

/-! ### The endings of loads and stores, with their aborts (R191 to R198, R210) -/

/-- A load: write-back, then Rd; on Fault write-back and DataAbort. `data` is what the access answered. -/
def finishLoad (m : Mode) (rd : Reg) (ad : Address) (data : Option Word) (s : State) : Result :=
  let s1 := s.applyWriteBack m ad
  match data with
  | none => .next (s1.raise .dataAbort s.pc)
  | some v => .next (s1.writeDest m rd v)

/-- A store: write-back; on Fault write-back and DataAbort. `stored` is what the access left. -/
def finishStore (m : Mode) (ad : Address) (stored : Option State) (s : State) : Result :=
  match stored with
  | none => .next ((s.applyWriteBack m ad).raise .dataAbort s.pc)
  | some s1 => .next (s1.applyWriteBack m ad).advance

/-- LDR, word (R191): a misaligned address is a violation under MISALIGN = refuse (R65). -/
def loadWordTo (m : Mode) (rd : Reg) (ad : Address) (s : State) : Result :=
  if s.wordRefused ad.address then violation .unpredictable else finishLoad m rd ad (s.loadWord ad.address) s

/-- LDRB (R193). -/
def loadByteTo (m : Mode) (rd : Reg) (ad : Address) (s : State) : Result :=
  finishLoad m rd ad (s.loadByte ad.address) s

/-- LDRSB (R197). -/
def loadSignedByteTo (m : Mode) (rd : Reg) (ad : Address) (s : State) : Result :=
  finishLoad m rd ad (s.loadSignedByte ad.address) s

/-- LDRH (R195): an odd address is a violation (R65). -/
def loadHalfTo (m : Mode) (rd : Reg) (ad : Address) (s : State) : Result :=
  if ad.address.getLsbD 0 then violation .unpredictable else finishLoad m rd ad (s.loadHalf ad.address) s

/-- LDRSH (R198). -/
def loadSignedHalfTo (m : Mode) (rd : Reg) (ad : Address) (s : State) : Result :=
  if ad.address.getLsbD 0 then violation .unpredictable else finishLoad m rd ad (s.loadSignedHalf ad.address) s

/-- STR, word (R192): a misaligned address is a violation under MISALIGN = refuse (R65). -/
def storeWordFrom (m : Mode) (v : Word) (ad : Address) (s : State) : Result :=
  if s.wordRefused ad.address then violation .unpredictable else finishStore m ad (s.storeWord ad.address v) s

/-- STRB (R194). -/
def storeByteFrom (m : Mode) (v : Word) (ad : Address) (s : State) : Result :=
  finishStore m ad (s.storeByte ad.address v) s

/-- STRH (R196): an odd address is a violation (R65). -/
def storeHalfFrom (m : Mode) (v : Word) (ad : Address) (s : State) : Result :=
  if ad.address.getLsbD 0 then violation .unpredictable else finishStore m ad (s.storeHalf ad.address v) s

/-! ### Block transfers (R201 to R204, R265, R266) -/

/-- R0 to R15 in ascending order. -/
def allRegs : List Reg := [0, 1, 2, 3, 4, 5, 6, 7, 8, 9, 10, 11, 12, 13, 14, 15]

/-- The registers of a register list, ascending: bit i names Ri (R104). -/
def listRegs (list : BitVec 16) : List Reg := allRegs.filter (fun r => list.getLsbD r.val)

/-- 4n, for n the number of registers transferred. -/
def blockSize (n : Nat) : Word := BitVec.ofNat 32 (4 * n)

/-- The lowest address of the block, by P and U (R201). -/
def blockStart (p u : Bool) (base : Word) (n : Nat) : Word :=
  match p, u with
  | false, true => base
  | true, true => base + 4#32
  | false, false => base - blockSize n + 4#32
  | true, false => base - blockSize n

/-- The base after write-back (R201). -/
def blockWriteBack (u : Bool) (base : Word) (n : Nat) : Word := if u then base + blockSize n else base - blockSize n

/-- The word addresses of n transfers from `start`: (start + 4k) AND 0xFFFFFFFC (R202). -/
def wordAddresses (start : Word) (n : Nat) : List Word :=
  (List.range n).map (fun k => (start + BitVec.ofNat 32 (4 * k)) &&& 0xFFFFFFFC#32)

/-- The value loaded for R15, when R15 is among the registers loaded (R203). -/
def loadedPc (loaded : List (Reg × Word)) : Option Word := (loaded.find? (fun rv => rv.1 == Reg.pc)).map (·.2)

/-- A block load (R203, R265, R266): `bank` is the mode whose registers are loaded, `wb` the written-back base, `psr` the CPSR
an exception return restores. Base first, then the loaded registers, CPSR, then pc. On Fault (R210) the registers already
read are written, R15 and CPSR are not, and the base is `wb`, or its original value. -/
def loadBlock (m bank : Mode) (rn : Reg) (base start : Word) (regs : List Reg) (wb : Option Word) (psr : Option Word)
    (s : State) : Result :=
  let r := s.readWords (wordAddresses start regs.length)
  let loaded := regs.zip r.1
  if r.2 then
    .next (((s.writeRegs bank loaded).writeReg m rn (wb.getD base)).raise .dataAbort s.pc)
  else
    let s1 := match wb with
      | none => s
      | some v => s.writeReg m rn v
    let s2 := s1.writeRegs bank loaded
    let s3 := match psr with
      | none => s2
      | some p => s2.setCpsr p
    match loadedPc loaded with
    | none => .next s3.advance
    | some v => .next (s3.branchWritePC v)

/-- A block store (R204, R265, R266): `bank` is the mode whose registers are stored; R15 stores CUR + 12, a listed base its
original value. On Fault (R210) the stores before it stay and the base is written back. -/
def storeBlock (m bank : Mode) (rn : Reg) (start : Word) (regs : List Reg) (wb : Option Word) (s : State) : Result :=
  let r := s.writeWords ((wordAddresses start regs.length).zip (regs.map (s.xLate bank)))
  let s1 := match wb with
    | none => r.1
    | some v => r.1.writeReg m rn v
  .next (if r.2 then s1.raise .dataAbort s.pc else s1.advance)

/-- LDM and STM: an empty list, or Rn = 15 (R201, U11). -/
def blockClash (list : BitVec 16) (rn : Reg) : Bool := list == 0x0000#16 || rn == Reg.pc

/-- The "^" form that transfers the User bank: with write-back, or in User or System mode (R203, R204, U11). -/
def userBankClash (m : Mode) (w : Bool) : Bool := w || m.saved.isNone

/-- STM and STMIA with write-back: Rn in the list and not its lowest register (R204, R266). -/
def storeBaseClash (regs : List Reg) (rn : Reg) : Bool := regs.contains rn && regs.head? != some rn

/-! ### Operand combinations of the other families -/

/-- MUL, MLA: R15 in a register field, or Rd = Rm (R180, U5); `rn` is the accumulator of MLA. -/
def mulClash (rd rs rm : Reg) : Bool := rd == Reg.pc || rs == Reg.pc || rm == Reg.pc || rd == rm

/-- The long multiplies: R15 in a register field, RdHi = RdLo, RdHi = Rm or RdLo = Rm (R180, U5). -/
def mullClash (rdHi rdLo rs rm : Reg) : Bool :=
  rdHi == Reg.pc || rdLo == Reg.pc || rs == Reg.pc || rm == Reg.pc || rdHi == rdLo || rdHi == rm || rdLo == rm

/-- SWP, SWPB: R15 in a register field, Rn = Rm or Rn = Rd (R206, U13). -/
def swpClash (rn rd rm : Reg) : Bool :=
  rn == Reg.pc || rd == Reg.pc || rm == Reg.pc || rn == rm || rn == rd

/-- LDC, STC: P = 0 and W = 0, or W = 1 and Rn = 15 (R245, U8). -/
def copClash (p w : Bool) (rn : Reg) : Bool := (!p && !w) || (w && rn == Reg.pc)

/-- THUMB ADD, CMP and MOV of format 5 with both registers low (R256, U10). -/
def bothLow (rd rs : Reg) : Bool := decide (rd.val < 8) && decide (rs.val < 8)

end Sys2Proof.Machine
end

