-- ==== Sys2Proof/Machine/Block.lean ====
section
/-! DEFINITION. The block data transfers and the swap (R201 to R210). -/
namespace Sys2Proof.Machine

/-- LDM (R201 to R203): the plain form, the User-bank form ("^" without R15) and the exception return ("^" with R15). The
checks of the exception return come before any access (R330, log 16). -/
def execLdm (c : Cond) (p u hat w : Bool) (rn : Reg) (list : BitVec 16) (s : State) : Result :=
  armInstr c s fun m =>
    let regs := listRegs list
    let base := s.x m rn
    let start := blockStart p u base regs.length
    let wb := if w then some (blockWriteBack u base regs.length) else none
    let pcListed := list.getLsbD 15
    if blockClash list rn then violation .unpredictable
    else if hat && !pcListed then
      if userBankClash m w then violation .unpredictable
      else loadBlock m .usr rn base start regs wb none s
    else if w && regs.contains rn then violation .unpredictable
    else if hat then
      match s.returnPsr m with
      | .error v => violation v
      | .ok psr => loadBlock m m rn base start regs wb (some psr) s
    else loadBlock m m rn base start regs wb none s

/-- STM (R201, R202, R204): the plain form and the User-bank form ("^"). -/
def execStm (c : Cond) (p u hat w : Bool) (rn : Reg) (list : BitVec 16) (s : State) : Result :=
  armInstr c s fun m =>
    let regs := listRegs list
    let base := s.x m rn
    let start := blockStart p u base regs.length
    let wb := if w then some (blockWriteBack u base regs.length) else none
    if blockClash list rn then violation .unpredictable
    else if hat then
      if userBankClash m w then violation .unpredictable
      else storeBlock m .usr rn start regs wb s
    else if w && storeBaseClash regs rn then violation .unpredictable
    else storeBlock m m rn start regs wb s

/-- The ending of SWP and SWPB (R206, R210): what the read answered, then what the write left. On Fault Rd is not written; a
read that faults issues no write. -/
def finishSwap (m : Mode) (rd : Reg) (data : Option Word) (stored : Option State) (s : State) : Result :=
  match data, stored with
  | some v, some s1 => .next (s1.writeReg m rd v).advance
  | _, _ => .next (s.raise .dataAbort s.pc)

/-- SWP (R206): the read rotates as LDR does, the store ignores the low address bits. -/
def execSwp (c : Cond) (rn rd rm : Reg) (s : State) : Result :=
  armInstr c s fun m =>
    let addr := s.x m rn
    if swpClash rn rd rm || s.wordRefused addr then violation .unpredictable
    else finishSwap m rd (s.loadWord addr) (s.storeWord addr (s.x m rm)) s

/-- SWPB (R207). -/
def execSwpb (c : Cond) (rn rd rm : Reg) (s : State) : Result :=
  armInstr c s fun m =>
    let addr := s.x m rn
    if swpClash rn rd rm then violation .unpredictable
    else finishSwap m rd (s.loadByte addr) (s.storeByte addr (s.x m rm)) s

end Sys2Proof.Machine
end

