-- ==== Sys2Proof/Machine/Branch.lean ====
section
/-! DEFINITION. The branches of ARM state (R220 to R222). -/
namespace Sys2Proof.Machine

/-- Where a branch with a 24-bit offset goes: CUR + 8 + (sext(offset24) << 2) (R105). -/
def branchTarget (offset24 : BitVec 24) (s : State) : Word := s.pc + 8#32 + (offset24.signExtend 32 <<< 2)

/-- BX to the target `t` (R222): bit 0 selects the state; an ARM target with bit 1 set is a violation (U7). -/
def branchExchange (t : Word) (s : State) : Result :=
  if t.getLsbD 0 then .next ((s.setCpsr (setT s.cpsr true)).setPc (t &&& 0xFFFFFFFE#32))
  else if t.getLsbD 1 then violation .unpredictable
  else .next ((s.setCpsr (setT s.cpsr false)).setPc (t &&& 0xFFFFFFFC#32))

/-- B (R220). -/
def execB (c : Cond) (offset24 : BitVec 24) (s : State) : Result :=
  armInstr c s fun _ => .next (s.branchWritePC (branchTarget offset24 s))

/-- BL (R221): R14 of the current mode holds CUR + 4. -/
def execBl (c : Cond) (offset24 : BitVec 24) (s : State) : Result :=
  armInstr c s fun m => .next ((s.writeReg m Reg.lr (s.pc + 4#32)).branchWritePC (branchTarget offset24 s))

/-- BX (R222); Rm = 15 is a violation (U7). -/
def execBx (c : Cond) (rm : Reg) (s : State) : Result :=
  armInstr c s fun m =>
    if rm = Reg.pc then violation .unpredictable else branchExchange (s.x m rm) s

end Sys2Proof.Machine
end

