-- ==== Sys2Proof/Machine/Coprocessor.lean ====
section
/-! DEFINITION. The coprocessor instructions (R240 to R246): the core decodes, makes the request, computes the addresses and performs
the memory accesses; the coprocessor is the list of its answers in State (log 7). -/
namespace Sys2Proof.Machine

/-- A request is made and the body runs on what a coprocessor that accepts it answers; Absent raises UndefinedInstruction
and has no other effect (R241). -/
def askCop (q : CopRequest) (s : State) (body : Word → List Word → State → Result) : Result :=
  match s.copAnswer with
  | .absent => .next ((s.copAsk q).raise .undefinedInstruction s.pc)
  | .accepted first more => body first more (s.copAsk q)

/-- The status register after MRC to R15 (R244): N, Z, C, V from bits 31 to 28 of the word. -/
def mrcFlags (psr r : Word) : Word := setNZCV psr (r.getLsbD 31) (r.getLsbD 30) (r.getLsbD 29) (r.getLsbD 28)

/-- The ending of LDC (R245, R210): the words at ascending aligned addresses, write-back, then phase 2; on Fault write-back
and DataAbort. -/
def loadCop (m : Mode) (ad : Address) (n : Nat) (s : State) : Result :=
  let r := s.readWords (wordAddresses ad.address n)
  let s1 := s.applyWriteBack m ad
  if r.2 then .next (s1.raise .dataAbort s.pc)
  else .next (s1.copTell (.loadData r.1)).advance

/-- The ending of STC (R246, R210): the words at ascending aligned addresses, then write-back; on Fault the writes before it
stay, write-back and DataAbort. -/
def storeCop (m : Mode) (ad : Address) (words : List Word) (s : State) : Result :=
  let r := s.writeWords ((wordAddresses ad.address words.length).zip words)
  let s1 := r.1.applyWriteBack m ad
  .next (if r.2 then s1.raise .dataAbort s.pc else s1.advance)

/-- The addressing of LDC and STC (R245): as R190, with the offset in words; P = 0 always has W = 1 here. -/
def copAddress (m : Mode) (p u w : Bool) (rn : Reg) (offset8 : BitVec 8) (s : State) : Address :=
  indexedAddress p u w rn (s.x m rn) (offset8.setWidth 32 <<< 2)

/-- LDC (R245). -/
def execLdc (c : Cond) (p u n w : Bool) (rn : Reg) (crd cp : BitVec 4) (offset8 : BitVec 8) (s : State) : Result :=
  armInstr c s fun m =>
    if copClash p w rn then violation .unpredictable
    else askCop (.load cp crd n) s fun _ more s1 =>
      loadCop m (copAddress m p u w rn offset8 s) (more.length + 1) s1

/-- STC (R246). -/
def execStc (c : Cond) (p u n w : Bool) (rn : Reg) (crd cp : BitVec 4) (offset8 : BitVec 8) (s : State) : Result :=
  armInstr c s fun m =>
    if copClash p w rn then violation .unpredictable
    else askCop (.store cp crd n) s fun first more s1 =>
      storeCop m (copAddress m p u w rn offset8 s) (first :: more) s1

/-- CDP (R242). -/
def execCdp (c : Cond) (opc1 crn crd cp : BitVec 4) (opc2 : BitVec 3) (crm : BitVec 4) (s : State) : Result :=
  armInstr c s fun _ => askCop (.execute cp opc1 crn crd crm opc2) s fun _ _ s1 => .next s1.advance

/-- MRC (R244): to Rd, or with Rd = 15 to the condition flags. -/
def execMrc (c : Cond) (opc1 : BitVec 3) (crn : BitVec 4) (rd : Reg) (cp : BitVec 4) (opc2 : BitVec 3) (crm : BitVec 4) (s : State) : Result :=
  armInstr c s fun m =>
    askCop (.moveFrom cp opc1 crn crm opc2) s fun first _ s1 =>
      if rd = Reg.pc then .next (s1.setCpsr (mrcFlags s1.cpsr first)).advance
      else .next (s1.writeReg m rd first).advance

/-- MCR (R243): Rd = 15 sends CUR + 12. -/
def execMcr (c : Cond) (opc1 : BitVec 3) (crn : BitVec 4) (rd : Reg) (cp : BitVec 4) (opc2 : BitVec 3) (crm : BitVec 4) (s : State) : Result :=
  armInstr c s fun m =>
    askCop (.moveTo cp opc1 crn crm opc2 (s.xLate m rd)) s fun _ _ s1 => .next s1.advance

end Sys2Proof.Machine
end

