-- ==== Sys2Proof/Machine/DataProcessing.lean ====
section
/-! DEFINITION. The sixteen data-processing instructions in their three operand forms (R150 to R169). Operands are read from the state
before the instruction; in the form shifted by a register R15 reads CUR + 12 (R134). -/
namespace Sys2Proof.Machine

/-- AND, immediate operand (R154): a AND op2. -/
def execAndI (c : Cond) (sf : Bool) (rn rd : Reg) (rot : BitVec 4) (imm8 : BitVec 8) (s : State) : Result :=
  armInstr c s fun m =>
    writeResult m sf rd (aluAnd s.cpsr (s.x m rn) (s.operandImm rot imm8)) s

/-- AND, register operand shifted by an immediate (R154): a AND op2. -/
def execAndR (c : Cond) (sf : Bool) (rn rd : Reg) (amount : BitVec 5) (ty : ShiftType) (rm : Reg) (s : State) : Result :=
  armInstr c s fun m =>
    writeResult m sf rd (aluAnd s.cpsr (s.x m rn) (s.operandReg m amount ty rm)) s

/-- AND, register operand shifted by a register; Rs = 15 or Rd = 15 is a violation (R151, R154): a AND op2. -/
def execAndS (c : Cond) (sf : Bool) (rn rd rs : Reg) (ty : ShiftType) (rm : Reg) (s : State) : Result :=
  armInstr c s fun m =>
    if shiftedClash rd rs then violation .unpredictable else
    writeResult m sf rd (aluAnd s.cpsr (s.xLate m rn) (s.operandShifted m rs ty rm)) s

/-- EOR, immediate operand (R155): a EOR op2. -/
def execEorI (c : Cond) (sf : Bool) (rn rd : Reg) (rot : BitVec 4) (imm8 : BitVec 8) (s : State) : Result :=
  armInstr c s fun m =>
    writeResult m sf rd (aluEor s.cpsr (s.x m rn) (s.operandImm rot imm8)) s

/-- EOR, register operand shifted by an immediate (R155): a EOR op2. -/
def execEorR (c : Cond) (sf : Bool) (rn rd : Reg) (amount : BitVec 5) (ty : ShiftType) (rm : Reg) (s : State) : Result :=
  armInstr c s fun m =>
    writeResult m sf rd (aluEor s.cpsr (s.x m rn) (s.operandReg m amount ty rm)) s

/-- EOR, register operand shifted by a register; Rs = 15 or Rd = 15 is a violation (R151, R155): a EOR op2. -/
def execEorS (c : Cond) (sf : Bool) (rn rd rs : Reg) (ty : ShiftType) (rm : Reg) (s : State) : Result :=
  armInstr c s fun m =>
    if shiftedClash rd rs then violation .unpredictable else
    writeResult m sf rd (aluEor s.cpsr (s.xLate m rn) (s.operandShifted m rs ty rm)) s

/-- SUB, immediate operand (R156): a - op2. -/
def execSubI (c : Cond) (sf : Bool) (rn rd : Reg) (rot : BitVec 4) (imm8 : BitVec 8) (s : State) : Result :=
  armInstr c s fun m =>
    writeResult m sf rd (aluSub s.cpsr (s.x m rn) (s.operandImm rot imm8)) s

/-- SUB, register operand shifted by an immediate (R156): a - op2. -/
def execSubR (c : Cond) (sf : Bool) (rn rd : Reg) (amount : BitVec 5) (ty : ShiftType) (rm : Reg) (s : State) : Result :=
  armInstr c s fun m =>
    writeResult m sf rd (aluSub s.cpsr (s.x m rn) (s.operandReg m amount ty rm)) s

/-- SUB, register operand shifted by a register; Rs = 15 or Rd = 15 is a violation (R151, R156): a - op2. -/
def execSubS (c : Cond) (sf : Bool) (rn rd rs : Reg) (ty : ShiftType) (rm : Reg) (s : State) : Result :=
  armInstr c s fun m =>
    if shiftedClash rd rs then violation .unpredictable else
    writeResult m sf rd (aluSub s.cpsr (s.xLate m rn) (s.operandShifted m rs ty rm)) s

/-- RSB, immediate operand (R157): op2 - a. -/
def execRsbI (c : Cond) (sf : Bool) (rn rd : Reg) (rot : BitVec 4) (imm8 : BitVec 8) (s : State) : Result :=
  armInstr c s fun m =>
    writeResult m sf rd (aluRsb s.cpsr (s.x m rn) (s.operandImm rot imm8)) s

/-- RSB, register operand shifted by an immediate (R157): op2 - a. -/
def execRsbR (c : Cond) (sf : Bool) (rn rd : Reg) (amount : BitVec 5) (ty : ShiftType) (rm : Reg) (s : State) : Result :=
  armInstr c s fun m =>
    writeResult m sf rd (aluRsb s.cpsr (s.x m rn) (s.operandReg m amount ty rm)) s

/-- RSB, register operand shifted by a register; Rs = 15 or Rd = 15 is a violation (R151, R157): op2 - a. -/
def execRsbS (c : Cond) (sf : Bool) (rn rd rs : Reg) (ty : ShiftType) (rm : Reg) (s : State) : Result :=
  armInstr c s fun m =>
    if shiftedClash rd rs then violation .unpredictable else
    writeResult m sf rd (aluRsb s.cpsr (s.xLate m rn) (s.operandShifted m rs ty rm)) s

/-- ADD, immediate operand (R158): a + op2. -/
def execAddI (c : Cond) (sf : Bool) (rn rd : Reg) (rot : BitVec 4) (imm8 : BitVec 8) (s : State) : Result :=
  armInstr c s fun m =>
    writeResult m sf rd (aluAdd s.cpsr (s.x m rn) (s.operandImm rot imm8)) s

/-- ADD, register operand shifted by an immediate (R158): a + op2. -/
def execAddR (c : Cond) (sf : Bool) (rn rd : Reg) (amount : BitVec 5) (ty : ShiftType) (rm : Reg) (s : State) : Result :=
  armInstr c s fun m =>
    writeResult m sf rd (aluAdd s.cpsr (s.x m rn) (s.operandReg m amount ty rm)) s

/-- ADD, register operand shifted by a register; Rs = 15 or Rd = 15 is a violation (R151, R158): a + op2. -/
def execAddS (c : Cond) (sf : Bool) (rn rd rs : Reg) (ty : ShiftType) (rm : Reg) (s : State) : Result :=
  armInstr c s fun m =>
    if shiftedClash rd rs then violation .unpredictable else
    writeResult m sf rd (aluAdd s.cpsr (s.xLate m rn) (s.operandShifted m rs ty rm)) s

/-- ADC, immediate operand (R159): a + op2 + C. -/
def execAdcI (c : Cond) (sf : Bool) (rn rd : Reg) (rot : BitVec 4) (imm8 : BitVec 8) (s : State) : Result :=
  armInstr c s fun m =>
    writeResult m sf rd (aluAdc s.cpsr (s.x m rn) (s.operandImm rot imm8)) s

/-- ADC, register operand shifted by an immediate (R159): a + op2 + C. -/
def execAdcR (c : Cond) (sf : Bool) (rn rd : Reg) (amount : BitVec 5) (ty : ShiftType) (rm : Reg) (s : State) : Result :=
  armInstr c s fun m =>
    writeResult m sf rd (aluAdc s.cpsr (s.x m rn) (s.operandReg m amount ty rm)) s

/-- ADC, register operand shifted by a register; Rs = 15 or Rd = 15 is a violation (R151, R159): a + op2 + C. -/
def execAdcS (c : Cond) (sf : Bool) (rn rd rs : Reg) (ty : ShiftType) (rm : Reg) (s : State) : Result :=
  armInstr c s fun m =>
    if shiftedClash rd rs then violation .unpredictable else
    writeResult m sf rd (aluAdc s.cpsr (s.xLate m rn) (s.operandShifted m rs ty rm)) s

/-- SBC, immediate operand (R160): a - op2 - (1 - C). -/
def execSbcI (c : Cond) (sf : Bool) (rn rd : Reg) (rot : BitVec 4) (imm8 : BitVec 8) (s : State) : Result :=
  armInstr c s fun m =>
    writeResult m sf rd (aluSbc s.cpsr (s.x m rn) (s.operandImm rot imm8)) s

/-- SBC, register operand shifted by an immediate (R160): a - op2 - (1 - C). -/
def execSbcR (c : Cond) (sf : Bool) (rn rd : Reg) (amount : BitVec 5) (ty : ShiftType) (rm : Reg) (s : State) : Result :=
  armInstr c s fun m =>
    writeResult m sf rd (aluSbc s.cpsr (s.x m rn) (s.operandReg m amount ty rm)) s

/-- SBC, register operand shifted by a register; Rs = 15 or Rd = 15 is a violation (R151, R160): a - op2 - (1 - C). -/
def execSbcS (c : Cond) (sf : Bool) (rn rd rs : Reg) (ty : ShiftType) (rm : Reg) (s : State) : Result :=
  armInstr c s fun m =>
    if shiftedClash rd rs then violation .unpredictable else
    writeResult m sf rd (aluSbc s.cpsr (s.xLate m rn) (s.operandShifted m rs ty rm)) s

/-- RSC, immediate operand (R161): op2 - a - (1 - C). -/
def execRscI (c : Cond) (sf : Bool) (rn rd : Reg) (rot : BitVec 4) (imm8 : BitVec 8) (s : State) : Result :=
  armInstr c s fun m =>
    writeResult m sf rd (aluRsc s.cpsr (s.x m rn) (s.operandImm rot imm8)) s

/-- RSC, register operand shifted by an immediate (R161): op2 - a - (1 - C). -/
def execRscR (c : Cond) (sf : Bool) (rn rd : Reg) (amount : BitVec 5) (ty : ShiftType) (rm : Reg) (s : State) : Result :=
  armInstr c s fun m =>
    writeResult m sf rd (aluRsc s.cpsr (s.x m rn) (s.operandReg m amount ty rm)) s

/-- RSC, register operand shifted by a register; Rs = 15 or Rd = 15 is a violation (R151, R161): op2 - a - (1 - C). -/
def execRscS (c : Cond) (sf : Bool) (rn rd rs : Reg) (ty : ShiftType) (rm : Reg) (s : State) : Result :=
  armInstr c s fun m =>
    if shiftedClash rd rs then violation .unpredictable else
    writeResult m sf rd (aluRsc s.cpsr (s.xLate m rn) (s.operandShifted m rs ty rm)) s

/-- TST, immediate operand (R162): flags of a AND op2. -/
def execTstI (c : Cond) (rn : Reg) (rot : BitVec 4) (imm8 : BitVec 8) (s : State) : Result :=
  armInstr c s fun m =>
    writeFlags (aluAnd s.cpsr (s.x m rn) (s.operandImm rot imm8)) s

/-- TST, register operand shifted by an immediate (R162): flags of a AND op2. -/
def execTstR (c : Cond) (rn : Reg) (amount : BitVec 5) (ty : ShiftType) (rm : Reg) (s : State) : Result :=
  armInstr c s fun m =>
    writeFlags (aluAnd s.cpsr (s.x m rn) (s.operandReg m amount ty rm)) s

/-- TST, register operand shifted by a register; Rs = 15 is a violation (U4) (R162): flags of a AND op2. -/
def execTstS (c : Cond) (rn rs : Reg) (ty : ShiftType) (rm : Reg) (s : State) : Result :=
  armInstr c s fun m =>
    if rs = Reg.pc then violation .unpredictable else
    writeFlags (aluAnd s.cpsr (s.xLate m rn) (s.operandShifted m rs ty rm)) s

/-- TEQ, immediate operand (R163): flags of a EOR op2. -/
def execTeqI (c : Cond) (rn : Reg) (rot : BitVec 4) (imm8 : BitVec 8) (s : State) : Result :=
  armInstr c s fun m =>
    writeFlags (aluEor s.cpsr (s.x m rn) (s.operandImm rot imm8)) s

/-- TEQ, register operand shifted by an immediate (R163): flags of a EOR op2. -/
def execTeqR (c : Cond) (rn : Reg) (amount : BitVec 5) (ty : ShiftType) (rm : Reg) (s : State) : Result :=
  armInstr c s fun m =>
    writeFlags (aluEor s.cpsr (s.x m rn) (s.operandReg m amount ty rm)) s

/-- TEQ, register operand shifted by a register; Rs = 15 is a violation (U4) (R163): flags of a EOR op2. -/
def execTeqS (c : Cond) (rn rs : Reg) (ty : ShiftType) (rm : Reg) (s : State) : Result :=
  armInstr c s fun m =>
    if rs = Reg.pc then violation .unpredictable else
    writeFlags (aluEor s.cpsr (s.xLate m rn) (s.operandShifted m rs ty rm)) s

/-- CMP, immediate operand (R164): flags of a - op2. -/
def execCmpI (c : Cond) (rn : Reg) (rot : BitVec 4) (imm8 : BitVec 8) (s : State) : Result :=
  armInstr c s fun m =>
    writeFlags (aluSub s.cpsr (s.x m rn) (s.operandImm rot imm8)) s

/-- CMP, register operand shifted by an immediate (R164): flags of a - op2. -/
def execCmpR (c : Cond) (rn : Reg) (amount : BitVec 5) (ty : ShiftType) (rm : Reg) (s : State) : Result :=
  armInstr c s fun m =>
    writeFlags (aluSub s.cpsr (s.x m rn) (s.operandReg m amount ty rm)) s

/-- CMP, register operand shifted by a register; Rs = 15 is a violation (U4) (R164): flags of a - op2. -/
def execCmpS (c : Cond) (rn rs : Reg) (ty : ShiftType) (rm : Reg) (s : State) : Result :=
  armInstr c s fun m =>
    if rs = Reg.pc then violation .unpredictable else
    writeFlags (aluSub s.cpsr (s.xLate m rn) (s.operandShifted m rs ty rm)) s

/-- CMN, immediate operand (R165): flags of a + op2. -/
def execCmnI (c : Cond) (rn : Reg) (rot : BitVec 4) (imm8 : BitVec 8) (s : State) : Result :=
  armInstr c s fun m =>
    writeFlags (aluAdd s.cpsr (s.x m rn) (s.operandImm rot imm8)) s

/-- CMN, register operand shifted by an immediate (R165): flags of a + op2. -/
def execCmnR (c : Cond) (rn : Reg) (amount : BitVec 5) (ty : ShiftType) (rm : Reg) (s : State) : Result :=
  armInstr c s fun m =>
    writeFlags (aluAdd s.cpsr (s.x m rn) (s.operandReg m amount ty rm)) s

/-- CMN, register operand shifted by a register; Rs = 15 is a violation (U4) (R165): flags of a + op2. -/
def execCmnS (c : Cond) (rn rs : Reg) (ty : ShiftType) (rm : Reg) (s : State) : Result :=
  armInstr c s fun m =>
    if rs = Reg.pc then violation .unpredictable else
    writeFlags (aluAdd s.cpsr (s.xLate m rn) (s.operandShifted m rs ty rm)) s

/-- ORR, immediate operand (R166): a OR op2. -/
def execOrrI (c : Cond) (sf : Bool) (rn rd : Reg) (rot : BitVec 4) (imm8 : BitVec 8) (s : State) : Result :=
  armInstr c s fun m =>
    writeResult m sf rd (aluOrr s.cpsr (s.x m rn) (s.operandImm rot imm8)) s

/-- ORR, register operand shifted by an immediate (R166): a OR op2. -/
def execOrrR (c : Cond) (sf : Bool) (rn rd : Reg) (amount : BitVec 5) (ty : ShiftType) (rm : Reg) (s : State) : Result :=
  armInstr c s fun m =>
    writeResult m sf rd (aluOrr s.cpsr (s.x m rn) (s.operandReg m amount ty rm)) s

/-- ORR, register operand shifted by a register; Rs = 15 or Rd = 15 is a violation (R151, R166): a OR op2. -/
def execOrrS (c : Cond) (sf : Bool) (rn rd rs : Reg) (ty : ShiftType) (rm : Reg) (s : State) : Result :=
  armInstr c s fun m =>
    if shiftedClash rd rs then violation .unpredictable else
    writeResult m sf rd (aluOrr s.cpsr (s.xLate m rn) (s.operandShifted m rs ty rm)) s

/-- MOV, immediate operand (R167): op2. -/
def execMovI (c : Cond) (sf : Bool) (rd : Reg) (rot : BitVec 4) (imm8 : BitVec 8) (s : State) : Result :=
  armInstr c s fun m =>
    writeResult m sf rd (aluMov s.cpsr (s.operandImm rot imm8)) s

/-- MOV, register operand shifted by an immediate (R167): op2. -/
def execMovR (c : Cond) (sf : Bool) (rd : Reg) (amount : BitVec 5) (ty : ShiftType) (rm : Reg) (s : State) : Result :=
  armInstr c s fun m =>
    writeResult m sf rd (aluMov s.cpsr (s.operandReg m amount ty rm)) s

/-- MOV, register operand shifted by a register; Rs = 15 or Rd = 15 is a violation (R151, R167): op2. -/
def execMovS (c : Cond) (sf : Bool) (rd rs : Reg) (ty : ShiftType) (rm : Reg) (s : State) : Result :=
  armInstr c s fun m =>
    if shiftedClash rd rs then violation .unpredictable else
    writeResult m sf rd (aluMov s.cpsr (s.operandShifted m rs ty rm)) s

/-- BIC, immediate operand (R168): a AND NOT op2. -/
def execBicI (c : Cond) (sf : Bool) (rn rd : Reg) (rot : BitVec 4) (imm8 : BitVec 8) (s : State) : Result :=
  armInstr c s fun m =>
    writeResult m sf rd (aluBic s.cpsr (s.x m rn) (s.operandImm rot imm8)) s

/-- BIC, register operand shifted by an immediate (R168): a AND NOT op2. -/
def execBicR (c : Cond) (sf : Bool) (rn rd : Reg) (amount : BitVec 5) (ty : ShiftType) (rm : Reg) (s : State) : Result :=
  armInstr c s fun m =>
    writeResult m sf rd (aluBic s.cpsr (s.x m rn) (s.operandReg m amount ty rm)) s

/-- BIC, register operand shifted by a register; Rs = 15 or Rd = 15 is a violation (R151, R168): a AND NOT op2. -/
def execBicS (c : Cond) (sf : Bool) (rn rd rs : Reg) (ty : ShiftType) (rm : Reg) (s : State) : Result :=
  armInstr c s fun m =>
    if shiftedClash rd rs then violation .unpredictable else
    writeResult m sf rd (aluBic s.cpsr (s.xLate m rn) (s.operandShifted m rs ty rm)) s

/-- MVN, immediate operand (R169): NOT op2. -/
def execMvnI (c : Cond) (sf : Bool) (rd : Reg) (rot : BitVec 4) (imm8 : BitVec 8) (s : State) : Result :=
  armInstr c s fun m =>
    writeResult m sf rd (aluMvn s.cpsr (s.operandImm rot imm8)) s

/-- MVN, register operand shifted by an immediate (R169): NOT op2. -/
def execMvnR (c : Cond) (sf : Bool) (rd : Reg) (amount : BitVec 5) (ty : ShiftType) (rm : Reg) (s : State) : Result :=
  armInstr c s fun m =>
    writeResult m sf rd (aluMvn s.cpsr (s.operandReg m amount ty rm)) s

/-- MVN, register operand shifted by a register; Rs = 15 or Rd = 15 is a violation (R151, R169): NOT op2. -/
def execMvnS (c : Cond) (sf : Bool) (rd rs : Reg) (ty : ShiftType) (rm : Reg) (s : State) : Result :=
  armInstr c s fun m =>
    if shiftedClash rd rs then violation .unpredictable else
    writeResult m sf rd (aluMvn s.cpsr (s.operandShifted m rs ty rm)) s

end Sys2Proof.Machine
end

