-- ==== Sys2Proof/Machine/LoadStore.lean ====
section
/-! DEFINITION. The single data transfers and the halfword and signed transfers (R190 to R200). The T forms (P = 0, W = 1) behave as
the post-indexed forms (R72, R200). -/
namespace Sys2Proof.Machine

/-- LDR, immediate offset, and the T form (R190, R191, R200); Rd = 15 is a branch. -/
def execLdrI (c : Cond) (p u w : Bool) (rn rd : Reg) (imm12 : BitVec 12) (s : State) : Result :=
  armInstr c s fun m =>
    if writeBackClash p w rn rd then violation .unpredictable
    else loadWordTo m rd (indexedAddress p u w rn (s.x m rn) (imm12.setWidth 32)) s

/-- LDR, register offset, and the T form (R190, R191, R200); Rd = 15 is a branch. -/
def execLdrR (c : Cond) (p u w : Bool) (rn rd : Reg) (amount : BitVec 5) (ty : ShiftType) (rm : Reg) (s : State) : Result :=
  armInstr c s fun m =>
    if writeBackClash p w rn rd || offsetClash p rn rm then violation .unpredictable
    else loadWordTo m rd (indexedAddress p u w rn (s.x m rn) (s.operandReg m amount ty rm).value) s

/-- LDRB, immediate offset, and the T form (R190, R193, R200); Rd = 15 is a violation. -/
def execLdrbI (c : Cond) (p u w : Bool) (rn rd : Reg) (imm12 : BitVec 12) (s : State) : Result :=
  armInstr c s fun m =>
    if writeBackClash p w rn rd || rd == Reg.pc then violation .unpredictable
    else loadByteTo m rd (indexedAddress p u w rn (s.x m rn) (imm12.setWidth 32)) s

/-- LDRB, register offset, and the T form (R190, R193, R200); Rd = 15 is a violation. -/
def execLdrbR (c : Cond) (p u w : Bool) (rn rd : Reg) (amount : BitVec 5) (ty : ShiftType) (rm : Reg) (s : State) : Result :=
  armInstr c s fun m =>
    if writeBackClash p w rn rd || offsetClash p rn rm || rd == Reg.pc then violation .unpredictable
    else loadByteTo m rd (indexedAddress p u w rn (s.x m rn) (s.operandReg m amount ty rm).value) s

/-- STR, immediate offset, and the T form (R190, R192, R200); Rd = 15 stores CUR + 12. -/
def execStrI (c : Cond) (p u w : Bool) (rn rd : Reg) (imm12 : BitVec 12) (s : State) : Result :=
  armInstr c s fun m =>
    if writeBackClash p w rn rd then violation .unpredictable
    else storeWordFrom m (s.xLate m rd) (indexedAddress p u w rn (s.x m rn) (imm12.setWidth 32)) s

/-- STR, register offset, and the T form (R190, R192, R200); Rd = 15 stores CUR + 12. -/
def execStrR (c : Cond) (p u w : Bool) (rn rd : Reg) (amount : BitVec 5) (ty : ShiftType) (rm : Reg) (s : State) : Result :=
  armInstr c s fun m =>
    if writeBackClash p w rn rd || offsetClash p rn rm then violation .unpredictable
    else storeWordFrom m (s.xLate m rd) (indexedAddress p u w rn (s.x m rn) (s.operandReg m amount ty rm).value) s

/-- STRB, immediate offset, and the T form (R190, R194, R200); Rd = 15 is a violation. -/
def execStrbI (c : Cond) (p u w : Bool) (rn rd : Reg) (imm12 : BitVec 12) (s : State) : Result :=
  armInstr c s fun m =>
    if writeBackClash p w rn rd || rd == Reg.pc then violation .unpredictable
    else storeByteFrom m (s.xLate m rd) (indexedAddress p u w rn (s.x m rn) (imm12.setWidth 32)) s

/-- STRB, register offset, and the T form (R190, R194, R200); Rd = 15 is a violation. -/
def execStrbR (c : Cond) (p u w : Bool) (rn rd : Reg) (amount : BitVec 5) (ty : ShiftType) (rm : Reg) (s : State) : Result :=
  armInstr c s fun m =>
    if writeBackClash p w rn rd || offsetClash p rn rm || rd == Reg.pc then violation .unpredictable
    else storeByteFrom m (s.xLate m rd) (indexedAddress p u w rn (s.x m rn) (s.operandReg m amount ty rm).value) s

/-- STRH, register offset (R196, R199). -/
def execStrhR (c : Cond) (p u w : Bool) (rn rd rm : Reg) (s : State) : Result :=
  armInstr c s fun m =>
    if writeBackClash p w rn rd || halfClash p w rd || offsetClash p rn rm then violation .unpredictable
    else storeHalfFrom m (s.x m rd) (indexedAddress p u w rn (s.x m rn) (s.x m rm)) s

/-- STRH, immediate offset (R196, R199). -/
def execStrhI (c : Cond) (p u w : Bool) (rn rd : Reg) (immHi immLo : BitVec 4) (s : State) : Result :=
  armInstr c s fun m =>
    if writeBackClash p w rn rd || halfClash p w rd then violation .unpredictable
    else storeHalfFrom m (s.x m rd) (indexedAddress p u w rn (s.x m rn) ((immHi ++ immLo).setWidth 32)) s

/-- LDRH, register offset (R195, R199). -/
def execLdrhR (c : Cond) (p u w : Bool) (rn rd rm : Reg) (s : State) : Result :=
  armInstr c s fun m =>
    if writeBackClash p w rn rd || halfClash p w rd || offsetClash p rn rm then violation .unpredictable
    else loadHalfTo m rd (indexedAddress p u w rn (s.x m rn) (s.x m rm)) s

/-- LDRH, immediate offset (R195, R199). -/
def execLdrhI (c : Cond) (p u w : Bool) (rn rd : Reg) (immHi immLo : BitVec 4) (s : State) : Result :=
  armInstr c s fun m =>
    if writeBackClash p w rn rd || halfClash p w rd then violation .unpredictable
    else loadHalfTo m rd (indexedAddress p u w rn (s.x m rn) ((immHi ++ immLo).setWidth 32)) s

/-- LDRSB, register offset (R197, R199). -/
def execLdrsbR (c : Cond) (p u w : Bool) (rn rd rm : Reg) (s : State) : Result :=
  armInstr c s fun m =>
    if writeBackClash p w rn rd || halfClash p w rd || offsetClash p rn rm then violation .unpredictable
    else loadSignedByteTo m rd (indexedAddress p u w rn (s.x m rn) (s.x m rm)) s

/-- LDRSB, immediate offset (R197, R199). -/
def execLdrsbI (c : Cond) (p u w : Bool) (rn rd : Reg) (immHi immLo : BitVec 4) (s : State) : Result :=
  armInstr c s fun m =>
    if writeBackClash p w rn rd || halfClash p w rd then violation .unpredictable
    else loadSignedByteTo m rd (indexedAddress p u w rn (s.x m rn) ((immHi ++ immLo).setWidth 32)) s

/-- LDRSH, register offset (R198, R199). -/
def execLdrshR (c : Cond) (p u w : Bool) (rn rd rm : Reg) (s : State) : Result :=
  armInstr c s fun m =>
    if writeBackClash p w rn rd || halfClash p w rd || offsetClash p rn rm then violation .unpredictable
    else loadSignedHalfTo m rd (indexedAddress p u w rn (s.x m rn) (s.x m rm)) s

/-- LDRSH, immediate offset (R198, R199). -/
def execLdrshI (c : Cond) (p u w : Bool) (rn rd : Reg) (immHi immLo : BitVec 4) (s : State) : Result :=
  armInstr c s fun m =>
    if writeBackClash p w rn rd || halfClash p w rd then violation .unpredictable
    else loadSignedHalfTo m rd (indexedAddress p u w rn (s.x m rn) ((immHi ++ immLo).setWidth 32)) s

end Sys2Proof.Machine
end

