-- ==== Sys2Proof/Machine/Multiply.lean ====
section
/-! DEFINITION. The multiply instructions (R180 to R187). C, and V of the long forms, are free values after a flag-setting multiply
(`draw(1)`, log 10). -/
namespace Sys2Proof.Machine

/-- The status register after a flag-setting MUL or MLA (R180, R181): N and Z of the result, C free (`draw(1)`), V stays. -/
def mulFlags (s : State) (r : Word) : Word :=
  setNZCV s.cpsr (r.getLsbD 31) (r == 0x00000000#32) (Config.freeBit s.draws 0) (psrV s.cpsr)

/-- The status register after a flag-setting long multiply (R183): N and Z of the 64-bit product, C and V free. -/
def mullFlags (s : State) (p : BitVec 64) : Word :=
  setNZCV s.cpsr (p.getLsbD 63) (p == 0x0000000000000000#64) (Config.freeBit s.draws 0) (Config.freeBit s.draws 1)

/-- The ending of MUL and MLA: Rd, and with S the flags. -/
def writeProduct (m : Mode) (sf : Bool) (rd : Reg) (r : Word) (s : State) : Result :=
  let s1 := s.writeReg m rd r
  .next (if sf then s1.setCpsr (mulFlags s r) else s1).advance

/-- The ending of the long multiplies: RdLo and RdHi, and with S the flags. -/
def writeLongProduct (m : Mode) (sf : Bool) (rdHi rdLo : Reg) (p : BitVec 64) (s : State) : Result :=
  let s1 := (s.writeReg m rdLo (p.extractLsb' 0 32)).writeReg m rdHi (p.extractLsb' 32 32)
  .next (if sf then s1.setCpsr (mullFlags s p) else s1).advance

/-- The 64-bit accumulator RdHi : RdLo (R184, R186). -/
def longAccumulator (m : Mode) (rdHi rdLo : Reg) (s : State) : BitVec 64 := s.x m rdHi ++ s.x m rdLo

/-- MUL (R181): the low 32 bits of x[Rm] * x[Rs]. -/
def execMul (c : Cond) (sf : Bool) (rd rs rm : Reg) (s : State) : Result :=
  armInstr c s fun m =>
    if mulClash rd rs rm then violation .unpredictable
    else writeProduct m sf rd (BitVec.ofNat 32 ((s.x m rm).toNat * (s.x m rs).toNat)) s

/-- MLA (R182): the low 32 bits of x[Rm] * x[Rs] + x[Rn]. -/
def execMla (c : Cond) (sf : Bool) (rd rn rs rm : Reg) (s : State) : Result :=
  armInstr c s fun m =>
    if mulClash rd rs rm || rn == Reg.pc then violation .unpredictable
    else writeProduct m sf rd (BitVec.ofNat 32 ((s.x m rm).toNat * (s.x m rs).toNat + (s.x m rn).toNat)) s

/-- UMULL (R183): the unsigned 64-bit product. -/
def execUmull (c : Cond) (sf : Bool) (rdHi rdLo rs rm : Reg) (s : State) : Result :=
  armInstr c s fun m =>
    if mullClash rdHi rdLo rs rm then violation .unpredictable
    else writeLongProduct m sf rdHi rdLo (BitVec.ofNat 64 ((s.x m rm).toNat * (s.x m rs).toNat)) s

/-- UMLAL (R184): the unsigned product plus RdHi : RdLo, modulo 2^64. -/
def execUmlal (c : Cond) (sf : Bool) (rdHi rdLo rs rm : Reg) (s : State) : Result :=
  armInstr c s fun m =>
    if mullClash rdHi rdLo rs rm then violation .unpredictable
    else writeLongProduct m sf rdHi rdLo (BitVec.ofNat 64
      ((s.x m rm).toNat * (s.x m rs).toNat + (longAccumulator m rdHi rdLo s).toNat)) s

/-- SMULL (R185): the signed 64-bit product. -/
def execSmull (c : Cond) (sf : Bool) (rdHi rdLo rs rm : Reg) (s : State) : Result :=
  armInstr c s fun m =>
    if mullClash rdHi rdLo rs rm then violation .unpredictable
    else writeLongProduct m sf rdHi rdLo (BitVec.ofInt 64 ((s.x m rm).toInt * (s.x m rs).toInt)) s

/-- SMLAL (R186): the signed product plus RdHi : RdLo, modulo 2^64. -/
def execSmlal (c : Cond) (sf : Bool) (rdHi rdLo rs rm : Reg) (s : State) : Result :=
  armInstr c s fun m =>
    if mullClash rdHi rdLo rs rm then violation .unpredictable
    else writeLongProduct m sf rdHi rdLo (BitVec.ofInt 64
      ((s.x m rm).toInt * (s.x m rs).toInt + (longAccumulator m rdHi rdLo s).toInt)) s

end Sys2Proof.Machine
end

