-- ==== Sys2Proof/Machine/System.lean ====
section
/-! DEFINITION. Status register access, software interrupt and the undefined space of ARM state (R230 to R233, R103, R311). -/
namespace Sys2Proof.Machine

/-- MRS (R230); Rd = 15 is a violation (U14). -/
def execMrs (c : Cond) (psr : Psr) (rd : Reg) (s : State) : Result :=
  armInstr c s fun m =>
    if rd = Reg.pc then violation .unpredictable
    else match psr with
      | .cpsr => .next (s.writeReg m rd s.cpsr).advance
      | .spsr => match s.readSpsr m with
        | .error v => violation v
        | .ok p => .next (s.writeReg m rd p).advance

/-- The bits an MSR may write (R231): the selected byte fields, less the reserved bits 26 to 8. -/
def writeMask (mask : BitVec 4) : Word :=
  ((if mask.getLsbD 3 then 0xFF000000#32 else 0x00000000#32) ||| (if mask.getLsbD 2 then 0x00FF0000#32 else 0x00000000#32)
    ||| (if mask.getLsbD 1 then 0x0000FF00#32 else 0x00000000#32) ||| (if mask.getLsbD 0 then 0x000000FF#32 else 0x00000000#32))
    &&& 0xF80000FF#32

/-- A status register with the bits of `wmask` taken from `operand` (R232). -/
def mergePsr (old operand wmask : Word) : Word := (old &&& ~~~wmask) ||| (operand &&& wmask)

/-- MSR with its operand (R232): CPSR keeps a legal mode and its T; an SPSR becomes defined when both the f and the c field
are selected. -/
def writePsr (m : Mode) (psr : Psr) (mask : BitVec 4) (operand : Word) (s : State) : Result :=
  match psr with
  | .cpsr =>
    let new := mergePsr s.cpsr operand (writeMask mask)
    if (Mode.ofBits (psrM new)).isNone then violation .illegalMode
    else if psrT new != psrT s.cpsr then violation .unpredictable
    else .next (s.setCpsr new).advance
  | .spsr =>
    match m.saved with
    | none => violation .noSPSR
    | some e =>
      let s1 := s.setSpsr e (mergePsr (s.spsr.get e) operand (writeMask mask))
      .next (if mask.getLsbD 3 && mask.getLsbD 0 then s1.defineSpsr e else s1).advance

/-- MSR, register operand (R231, R232); Rm = 15 is a violation (U14). -/
def execMsrR (c : Cond) (psr : Psr) (mask : BitVec 4) (rm : Reg) (s : State) : Result :=
  armInstr c s fun m =>
    if rm = Reg.pc then violation .unpredictable else writePsr m psr mask (s.x m rm) s

/-- MSR, immediate operand (R231, R232). -/
def execMsrI (c : Cond) (psr : Psr) (mask rot : BitVec 4) (imm8 : BitVec 8) (s : State) : Result :=
  armInstr c s fun m => writePsr m psr mask (s.operandImm rot imm8).value s

/-- SWI (R233, R312): the SoftwareInterrupt entry; the comment field is ignored (R109). -/
def execSwi (c : Cond) (_comment24 : BitVec 24) (s : State) : Result :=
  armInstr c s fun _ => .next (s.raise .softwareInterrupt s.pc)

/-- The undefined space (R103, R311): the UndefinedInstruction entry. -/
def execUndefined (c : Cond) (_hi : BitVec 20) (_lo : BitVec 4) (s : State) : Result :=
  armInstr c s fun _ => .next (s.raise .undefinedInstruction s.pc)

end Sys2Proof.Machine
end

