-- ==== Sys2Proof/Machine/ThumbAlu.lean ====
section
/-! DEFINITION. Shifts, arithmetic, logic and address generation of THUMB state: formats 1 to 5, 12 and 13 (R252 to R256, R263, R264). -/
namespace Sys2Proof.Machine

/-- A flag-setting result of THUMB state, written to a low register (R251, R252). -/
def writeLow (m : Mode) (rd : LowReg) (r : AluResult) (s : State) : Result := writeResult m true (loReg rd) r s

/-- LSL Rd, Rs, #offset5 (R252): MOVS with the shift by an immediate of R151. -/
def execTLslI (offset5 : BitVec 5) (rs rd : LowReg) (s : State) : Result :=
  thumbInstr s fun m =>
    writeLow m rd (aluMov s.cpsr (s.operandReg m offset5 .lsl (loReg rs))) s

/-- LSR Rd, Rs, #offset5 (R252): MOVS with the shift by an immediate of R151. -/
def execTLsrI (offset5 : BitVec 5) (rs rd : LowReg) (s : State) : Result :=
  thumbInstr s fun m =>
    writeLow m rd (aluMov s.cpsr (s.operandReg m offset5 .lsr (loReg rs))) s

/-- ASR Rd, Rs, #offset5 (R252): MOVS with the shift by an immediate of R151. -/
def execTAsrI (offset5 : BitVec 5) (rs rd : LowReg) (s : State) : Result :=
  thumbInstr s fun m =>
    writeLow m rd (aluMov s.cpsr (s.operandReg m offset5 .asr (loReg rs))) s

/-- ADD Rd, Rs, Rn (R253). -/
def execTAddR (rn rs rd : LowReg) (s : State) : Result :=
  thumbInstr s fun m =>
    writeLow m rd (aluAdd s.cpsr (s.x m (loReg rs)) (plainOperand s.cpsr (s.x m (loReg rn)))) s

/-- SUB Rd, Rs, Rn (R253). -/
def execTSubR (rn rs rd : LowReg) (s : State) : Result :=
  thumbInstr s fun m =>
    writeLow m rd (aluSub s.cpsr (s.x m (loReg rs)) (plainOperand s.cpsr (s.x m (loReg rn)))) s

/-- ADD Rd, Rs, #imm3 (R253). -/
def execTAddI3 (imm3 : BitVec 3) (rs rd : LowReg) (s : State) : Result :=
  thumbInstr s fun m =>
    writeLow m rd (aluAdd s.cpsr (s.x m (loReg rs)) (plainOperand s.cpsr (imm3.setWidth 32))) s

/-- SUB Rd, Rs, #imm3 (R253). -/
def execTSubI3 (imm3 : BitVec 3) (rs rd : LowReg) (s : State) : Result :=
  thumbInstr s fun m =>
    writeLow m rd (aluSub s.cpsr (s.x m (loReg rs)) (plainOperand s.cpsr (imm3.setWidth 32))) s

/-- MOV Rd, #imm8 (R254): C and V stay. -/
def execTMovI (rd : LowReg) (imm8 : BitVec 8) (s : State) : Result :=
  thumbInstr s fun m => writeLow m rd (aluMov s.cpsr (plainOperand s.cpsr (imm8.setWidth 32))) s

/-- CMP Rd, #imm8 (R254). -/
def execTCmpI (rd : LowReg) (imm8 : BitVec 8) (s : State) : Result :=
  thumbInstr s fun m => writeFlags (aluSub s.cpsr (s.x m (loReg rd)) (plainOperand s.cpsr (imm8.setWidth 32))) s

/-- ADD Rd, #imm8 (R254). -/
def execTAddI8 (rd : LowReg) (imm8 : BitVec 8) (s : State) : Result :=
  thumbInstr s fun m =>
    writeLow m rd (aluAdd s.cpsr (s.x m (loReg rd)) (plainOperand s.cpsr (imm8.setWidth 32))) s

/-- SUB Rd, #imm8 (R254). -/
def execTSubI8 (rd : LowReg) (imm8 : BitVec 8) (s : State) : Result :=
  thumbInstr s fun m =>
    writeLow m rd (aluSub s.cpsr (s.x m (loReg rd)) (plainOperand s.cpsr (imm8.setWidth 32))) s

/-- AND Rd, Rs (R255). -/
def execTAnd (rs rd : LowReg) (s : State) : Result :=
  thumbInstr s fun m =>
    writeLow m rd (aluAnd s.cpsr (s.x m (loReg rd)) (plainOperand s.cpsr (s.x m (loReg rs)))) s

/-- EOR Rd, Rs (R255). -/
def execTEor (rs rd : LowReg) (s : State) : Result :=
  thumbInstr s fun m =>
    writeLow m rd (aluEor s.cpsr (s.x m (loReg rd)) (plainOperand s.cpsr (s.x m (loReg rs)))) s

/-- LSL Rd, Rs (R255): the shift by a register of R151. -/
def execTLslR (rs rd : LowReg) (s : State) : Result :=
  thumbInstr s fun m =>
    writeLow m rd (aluMov s.cpsr (shiftByReg .lsl (shiftAmount (s.x m (loReg rs))) (s.x m (loReg rd)) (psrC s.cpsr))) s

/-- LSR Rd, Rs (R255): the shift by a register of R151. -/
def execTLsrR (rs rd : LowReg) (s : State) : Result :=
  thumbInstr s fun m =>
    writeLow m rd (aluMov s.cpsr (shiftByReg .lsr (shiftAmount (s.x m (loReg rs))) (s.x m (loReg rd)) (psrC s.cpsr))) s

/-- ASR Rd, Rs (R255): the shift by a register of R151. -/
def execTAsrR (rs rd : LowReg) (s : State) : Result :=
  thumbInstr s fun m =>
    writeLow m rd (aluMov s.cpsr (shiftByReg .asr (shiftAmount (s.x m (loReg rs))) (s.x m (loReg rd)) (psrC s.cpsr))) s

/-- ADC Rd, Rs (R255). -/
def execTAdc (rs rd : LowReg) (s : State) : Result :=
  thumbInstr s fun m =>
    writeLow m rd (aluAdc s.cpsr (s.x m (loReg rd)) (plainOperand s.cpsr (s.x m (loReg rs)))) s

/-- SBC Rd, Rs (R255). -/
def execTSbc (rs rd : LowReg) (s : State) : Result :=
  thumbInstr s fun m =>
    writeLow m rd (aluSbc s.cpsr (s.x m (loReg rd)) (plainOperand s.cpsr (s.x m (loReg rs)))) s

/-- ROR Rd, Rs (R255): the shift by a register of R151. -/
def execTRorR (rs rd : LowReg) (s : State) : Result :=
  thumbInstr s fun m =>
    writeLow m rd (aluMov s.cpsr (shiftByReg .ror (shiftAmount (s.x m (loReg rs))) (s.x m (loReg rd)) (psrC s.cpsr))) s

/-- TST Rd, Rs (R255): the flags only. -/
def execTTst (rs rd : LowReg) (s : State) : Result :=
  thumbInstr s fun m => writeFlags (aluAnd s.cpsr (s.x m (loReg rd)) (plainOperand s.cpsr (s.x m (loReg rs)))) s

/-- NEG Rd, Rs (R255): 0 - x[Rs]. -/
def execTNeg (rs rd : LowReg) (s : State) : Result :=
  thumbInstr s fun m => writeLow m rd (aluSub s.cpsr 0x00000000#32 (plainOperand s.cpsr (s.x m (loReg rs)))) s

/-- CMP Rd, Rs (R255): the flags only. -/
def execTCmpR (rs rd : LowReg) (s : State) : Result :=
  thumbInstr s fun m => writeFlags (aluSub s.cpsr (s.x m (loReg rd)) (plainOperand s.cpsr (s.x m (loReg rs)))) s

/-- CMN Rd, Rs (R255): the flags only. -/
def execTCmn (rs rd : LowReg) (s : State) : Result :=
  thumbInstr s fun m => writeFlags (aluAdd s.cpsr (s.x m (loReg rd)) (plainOperand s.cpsr (s.x m (loReg rs)))) s

/-- ORR Rd, Rs (R255). -/
def execTOrr (rs rd : LowReg) (s : State) : Result :=
  thumbInstr s fun m =>
    writeLow m rd (aluOrr s.cpsr (s.x m (loReg rd)) (plainOperand s.cpsr (s.x m (loReg rs)))) s

/-- MUL Rd, Rs (R255): C is free (log 10); Rd = Rs is a violation (U5). -/
def execTMul (rs rd : LowReg) (s : State) : Result :=
  thumbInstr s fun m =>
    if rd = rs then violation .unpredictable
    else writeProduct m true (loReg rd) (BitVec.ofNat 32 ((s.x m (loReg rs)).toNat * (s.x m (loReg rd)).toNat)) s

/-- BIC Rd, Rs (R255). -/
def execTBic (rs rd : LowReg) (s : State) : Result :=
  thumbInstr s fun m =>
    writeLow m rd (aluBic s.cpsr (s.x m (loReg rd)) (plainOperand s.cpsr (s.x m (loReg rs)))) s

/-- MVN Rd, Rs (R255). -/
def execTMvn (rs rd : LowReg) (s : State) : Result :=
  thumbInstr s fun m => writeLow m rd (aluMvn s.cpsr (plainOperand s.cpsr (s.x m (loReg rs)))) s

/-- ADD Rd, Rs with a high register (R256): no flag changes; R15 as destination is a branch. -/
def execTAddHi (rs rd : Reg) (s : State) : Result :=
  thumbInstr s fun m =>
    if bothLow rd rs then violation .unpredictable
    else .next (s.writeDest m rd (s.x m rd + s.x m rs))

/-- CMP Rd, Rs with a high register (R256); Rd = 15 is a violation (U10). -/
def execTCmpHi (rs rd : Reg) (s : State) : Result :=
  thumbInstr s fun m =>
    if bothLow rd rs || rd == Reg.pc then violation .unpredictable
    else writeFlags (aluSub s.cpsr (s.x m rd) (plainOperand s.cpsr (s.x m rs))) s

/-- MOV Rd, Rs with a high register (R256): no flag changes; R15 as destination is a branch. -/
def execTMovHi (rs rd : Reg) (s : State) : Result :=
  thumbInstr s fun m =>
    if bothLow rd rs then violation .unpredictable
    else .next (s.writeDest m rd (s.x m rs))

/-- ADD Rd, PC, #imm (R263): the base is (CUR + 4) AND 0xFFFFFFFD; no flag changes. -/
def execTAddPc (rd : LowReg) (word8 : BitVec 8) (s : State) : Result :=
  thumbInstr s fun m => .next (s.writeDest m (loReg rd) (s.pcBase + (word8.setWidth 32 <<< 2)))

/-- ADD Rd, SP, #imm (R263): no flag changes. -/
def execTAddSp (rd : LowReg) (word8 : BitVec 8) (s : State) : Result :=
  thumbInstr s fun m => .next (s.writeDest m (loReg rd) (s.x m Reg.sp + (word8.setWidth 32 <<< 2)))

/-- ADD SP, #imm (R264): no flag changes. -/
def execTSpAdd (sword7 : BitVec 7) (s : State) : Result :=
  thumbInstr s fun m => .next (s.writeDest m Reg.sp (s.x m Reg.sp + (sword7.setWidth 32 <<< 2)))

/-- SUB SP, #imm (R264): no flag changes. -/
def execTSpSub (sword7 : BitVec 7) (s : State) : Result :=
  thumbInstr s fun m => .next (s.writeDest m Reg.sp (s.x m Reg.sp - (sword7.setWidth 32 <<< 2)))

end Sys2Proof.Machine
end

