-- ==== Sys2Proof/Machine/ThumbBranch.lean ====
section
/-! DEFINITION. The branches, the software interrupt and the undefined space of THUMB state: formats 16 to 19 and BX of format 5
(R256, R267 to R270). -/
namespace Sys2Proof.Machine

/-- A conditional branch (R267): CUR + 4 + (sext(soffset8) << 1) when the condition passes. -/
def branchIf (c : Cond) (soffset8 : BitVec 8) (s : State) : Result :=
  thumbInstr s fun _ =>
    if condPassed c s.cpsr then .next (s.branchWritePC (s.pc + 4#32 + (soffset8.signExtend 32 <<< 1)))
    else .next s.advance

/-- BEQ (R267). -/
def execTBeq (soffset8 : BitVec 8) (s : State) : Result :=
  branchIf .eq soffset8 s

/-- BNE (R267). -/
def execTBne (soffset8 : BitVec 8) (s : State) : Result :=
  branchIf .ne soffset8 s

/-- BCS (R267). -/
def execTBcs (soffset8 : BitVec 8) (s : State) : Result :=
  branchIf .cs soffset8 s

/-- BCC (R267). -/
def execTBcc (soffset8 : BitVec 8) (s : State) : Result :=
  branchIf .cc soffset8 s

/-- BMI (R267). -/
def execTBmi (soffset8 : BitVec 8) (s : State) : Result :=
  branchIf .mi soffset8 s

/-- BPL (R267). -/
def execTBpl (soffset8 : BitVec 8) (s : State) : Result :=
  branchIf .pl soffset8 s

/-- BVS (R267). -/
def execTBvs (soffset8 : BitVec 8) (s : State) : Result :=
  branchIf .vs soffset8 s

/-- BVC (R267). -/
def execTBvc (soffset8 : BitVec 8) (s : State) : Result :=
  branchIf .vc soffset8 s

/-- BHI (R267). -/
def execTBhi (soffset8 : BitVec 8) (s : State) : Result :=
  branchIf .hi soffset8 s

/-- BLS (R267). -/
def execTBls (soffset8 : BitVec 8) (s : State) : Result :=
  branchIf .ls soffset8 s

/-- BGE (R267). -/
def execTBge (soffset8 : BitVec 8) (s : State) : Result :=
  branchIf .ge soffset8 s

/-- BLT (R267). -/
def execTBlt (soffset8 : BitVec 8) (s : State) : Result :=
  branchIf .lt soffset8 s

/-- BGT (R267). -/
def execTBgt (soffset8 : BitVec 8) (s : State) : Result :=
  branchIf .gt soffset8 s

/-- BLE (R267). -/
def execTBle (soffset8 : BitVec 8) (s : State) : Result :=
  branchIf .le soffset8 s

/-- BX Rs (R256): Rs = 15 reads CUR + 4. -/
def execTBx (rs : Reg) (s : State) : Result :=
  thumbInstr s fun m => branchExchange (s.x m rs) s

/-- The undefined space 0xDE00 to 0xDEFF (R267, R311): the UndefinedInstruction entry. -/
def execTUndefined (_imm8 : BitVec 8) (s : State) : Result :=
  thumbInstr s fun _ => .next (s.raise .undefinedInstruction s.pc)

/-- SWI (R268): the SoftwareInterrupt entry; value8 is ignored. -/
def execTSwi (_value8 : BitVec 8) (s : State) : Result :=
  thumbInstr s fun _ => .next (s.raise .softwareInterrupt s.pc)

/-- B (R269): CUR + 4 + (sext(offset11) << 1). -/
def execTB (offset11 : BitVec 11) (s : State) : Result :=
  thumbInstr s fun _ => .next (s.branchWritePC (s.pc + 4#32 + (offset11.signExtend 32 <<< 1)))

/-- BL, first half (R270): R14 <- CUR + 4 + (sext(offset11) << 12). -/
def execTBlFirst (offset11 : BitVec 11) (s : State) : Result :=
  thumbInstr s fun m => .next (s.writeReg m Reg.lr (s.pc + 4#32 + (offset11.signExtend 32 <<< 12))).advance

/-- BL, second half (R270): pc <- (R14 + (offset11 << 1)) AND 0xFFFFFFFE, R14 <- (CUR + 2) OR 1. -/
def execTBlSecond (offset11 : BitVec 11) (s : State) : Result :=
  thumbInstr s fun m =>
    let target := (s.x m Reg.lr + (offset11.setWidth 32 <<< 1)) &&& 0xFFFFFFFE#32
    .next ((s.writeReg m Reg.lr ((s.pc + 2#32) ||| 1#32)).setPc target)

end Sys2Proof.Machine
end

