-- ==== Sys2Proof/Machine/ThumbMemory.lean ====
section
/-! DEFINITION. The loads and stores of THUMB state: formats 6 to 11, 14 and 15 (R257 to R262, R265, R266). -/
namespace Sys2Proof.Machine

/-- LDR Rd, [PC, #imm] (R257): the address is always word-aligned. -/
def execTLdrPc (rd : LowReg) (word8 : BitVec 8) (s : State) : Result :=
  thumbInstr s fun m =>
    let a := s.pcBase + (word8.setWidth 32 <<< 2)
    finishLoad m (loReg rd) (.plain a) (s.memReadWord false a) s

/-- STR Rd, [Rb, Ro] (R258). -/
def execTStrR (ro rb rd : LowReg) (s : State) : Result :=
  thumbInstr s fun m =>
    storeWordFrom m (s.x m (loReg rd)) (.plain (s.x m (loReg rb) + s.x m (loReg ro))) s

/-- STRB Rd, [Rb, Ro] (R258). -/
def execTStrbR (ro rb rd : LowReg) (s : State) : Result :=
  thumbInstr s fun m =>
    storeByteFrom m (s.x m (loReg rd)) (.plain (s.x m (loReg rb) + s.x m (loReg ro))) s

/-- LDR Rd, [Rb, Ro] (R258). -/
def execTLdrR (ro rb rd : LowReg) (s : State) : Result :=
  thumbInstr s fun m =>
    loadWordTo m (loReg rd) (.plain (s.x m (loReg rb) + s.x m (loReg ro))) s

/-- LDRB Rd, [Rb, Ro] (R258). -/
def execTLdrbR (ro rb rd : LowReg) (s : State) : Result :=
  thumbInstr s fun m =>
    loadByteTo m (loReg rd) (.plain (s.x m (loReg rb) + s.x m (loReg ro))) s

/-- STRH Rd, [Rb, Ro] (R259). -/
def execTStrhR (ro rb rd : LowReg) (s : State) : Result :=
  thumbInstr s fun m =>
    storeHalfFrom m (s.x m (loReg rd)) (.plain (s.x m (loReg rb) + s.x m (loReg ro))) s

/-- LDSB Rd, [Rb, Ro] (R259). -/
def execTLdsbR (ro rb rd : LowReg) (s : State) : Result :=
  thumbInstr s fun m =>
    loadSignedByteTo m (loReg rd) (.plain (s.x m (loReg rb) + s.x m (loReg ro))) s

/-- LDRH Rd, [Rb, Ro] (R259). -/
def execTLdrhR (ro rb rd : LowReg) (s : State) : Result :=
  thumbInstr s fun m =>
    loadHalfTo m (loReg rd) (.plain (s.x m (loReg rb) + s.x m (loReg ro))) s

/-- LDSH Rd, [Rb, Ro] (R259). -/
def execTLdshR (ro rb rd : LowReg) (s : State) : Result :=
  thumbInstr s fun m =>
    loadSignedHalfTo m (loReg rd) (.plain (s.x m (loReg rb) + s.x m (loReg ro))) s

/-- STR Rd, [Rb, #imm] (R260). -/
def execTStrI (offset5 : BitVec 5) (rb rd : LowReg) (s : State) : Result :=
  thumbInstr s fun m =>
    storeWordFrom m (s.x m (loReg rd)) (.plain (s.x m (loReg rb) + (offset5.setWidth 32 <<< 2))) s

/-- LDR Rd, [Rb, #imm] (R260). -/
def execTLdrI (offset5 : BitVec 5) (rb rd : LowReg) (s : State) : Result :=
  thumbInstr s fun m =>
    loadWordTo m (loReg rd) (.plain (s.x m (loReg rb) + (offset5.setWidth 32 <<< 2))) s

/-- STRB Rd, [Rb, #imm] (R260). -/
def execTStrbI (offset5 : BitVec 5) (rb rd : LowReg) (s : State) : Result :=
  thumbInstr s fun m =>
    storeByteFrom m (s.x m (loReg rd)) (.plain (s.x m (loReg rb) + offset5.setWidth 32)) s

/-- LDRB Rd, [Rb, #imm] (R260). -/
def execTLdrbI (offset5 : BitVec 5) (rb rd : LowReg) (s : State) : Result :=
  thumbInstr s fun m =>
    loadByteTo m (loReg rd) (.plain (s.x m (loReg rb) + offset5.setWidth 32)) s

/-- STRH Rd, [Rb, #imm] (R261). -/
def execTStrhI (offset5 : BitVec 5) (rb rd : LowReg) (s : State) : Result :=
  thumbInstr s fun m =>
    storeHalfFrom m (s.x m (loReg rd)) (.plain (s.x m (loReg rb) + (offset5.setWidth 32 <<< 1))) s

/-- LDRH Rd, [Rb, #imm] (R261). -/
def execTLdrhI (offset5 : BitVec 5) (rb rd : LowReg) (s : State) : Result :=
  thumbInstr s fun m =>
    loadHalfTo m (loReg rd) (.plain (s.x m (loReg rb) + (offset5.setWidth 32 <<< 1))) s

/-- STR Rd, [SP, #imm] (R262). -/
def execTStrSp (rd : LowReg) (word8 : BitVec 8) (s : State) : Result :=
  thumbInstr s fun m =>
    storeWordFrom m (s.x m (loReg rd)) (.plain (s.x m Reg.sp + (word8.setWidth 32 <<< 2))) s

/-- LDR Rd, [SP, #imm] (R262). -/
def execTLdrSp (rd : LowReg) (word8 : BitVec 8) (s : State) : Result :=
  thumbInstr s fun m =>
    loadWordTo m (loReg rd) (.plain (s.x m Reg.sp + (word8.setWidth 32 <<< 2))) s

/-- The registers of an 8-bit list, and R14 or R15 after them when `extra` gives one (R265, R266). -/
def lowListRegs (rlist : BitVec 8) (extra : Option Reg) : List Reg :=
  listRegs (rlist.setWidth 16) ++ extra.toList

/-- PUSH (R265): as STMDB R13!, with R14 when R is set; an empty list is a violation. -/
def execTPush (r : Bool) (rlist : BitVec 8) (s : State) : Result :=
  thumbInstr s fun m =>
    let regs := lowListRegs rlist (if r then some Reg.lr else none)
    let base := s.x m Reg.sp
    let start := base - blockSize regs.length
    if regs.isEmpty then violation .unpredictable
    else storeBlock m m Reg.sp start regs (some start) s

/-- POP (R265): as LDMIA R13!, with R15 when R is set; an empty list is a violation. -/
def execTPop (r : Bool) (rlist : BitVec 8) (s : State) : Result :=
  thumbInstr s fun m =>
    let regs := lowListRegs rlist (if r then some Reg.pc else none)
    let base := s.x m Reg.sp
    if regs.isEmpty then violation .unpredictable
    else loadBlock m m Reg.sp base base regs (some (base + blockSize regs.length)) none s

/-- STMIA Rb!, {rlist} (R266): Rb listed and not lowest, or an empty list, is a violation. -/
def execTStmia (rb : LowReg) (rlist : BitVec 8) (s : State) : Result :=
  thumbInstr s fun m =>
    let regs := lowListRegs rlist none
    let base := s.x m (loReg rb)
    if regs.isEmpty || storeBaseClash regs (loReg rb) then violation .unpredictable
    else storeBlock m m (loReg rb) base regs (some (base + blockSize regs.length)) s

/-- LDMIA Rb!, {rlist} (R266): a listed Rb takes the loaded value; an empty list is a violation. -/
def execTLdmia (rb : LowReg) (rlist : BitVec 8) (s : State) : Result :=
  thumbInstr s fun m =>
    let regs := lowListRegs rlist none
    let base := s.x m (loReg rb)
    if regs.isEmpty then violation .unpredictable
    else loadBlock m m (loReg rb) base base regs (some (base + blockSize regs.length)) none s

end Sys2Proof.Machine
end

