-- ==== Sys2Proof/Machine/Dispatch.lean ====
section
/-! DEFINITION. The dispatch (R137): one arm per constructor of Instr, each a direct call of its meaning. -/
namespace Sys2Proof.Machine

def exec (i : Instr) (s : State) : Host.Outcome State Fault Refusal :=
  match i with
  -- ARM state
  | .andI c sf rn rd rot imm8 => Sys2Proof.Machine.execAndI c sf rn rd rot imm8 s
  | .andR c sf rn rd amount ty rm => Sys2Proof.Machine.execAndR c sf rn rd amount ty rm s
  | .andS c sf rn rd rs ty rm => Sys2Proof.Machine.execAndS c sf rn rd rs ty rm s
  | .eorI c sf rn rd rot imm8 => Sys2Proof.Machine.execEorI c sf rn rd rot imm8 s
  | .eorR c sf rn rd amount ty rm => Sys2Proof.Machine.execEorR c sf rn rd amount ty rm s
  | .eorS c sf rn rd rs ty rm => Sys2Proof.Machine.execEorS c sf rn rd rs ty rm s
  | .subI c sf rn rd rot imm8 => Sys2Proof.Machine.execSubI c sf rn rd rot imm8 s
  | .subR c sf rn rd amount ty rm => Sys2Proof.Machine.execSubR c sf rn rd amount ty rm s
  | .subS c sf rn rd rs ty rm => Sys2Proof.Machine.execSubS c sf rn rd rs ty rm s
  | .rsbI c sf rn rd rot imm8 => Sys2Proof.Machine.execRsbI c sf rn rd rot imm8 s
  | .rsbR c sf rn rd amount ty rm => Sys2Proof.Machine.execRsbR c sf rn rd amount ty rm s
  | .rsbS c sf rn rd rs ty rm => Sys2Proof.Machine.execRsbS c sf rn rd rs ty rm s
  | .addI c sf rn rd rot imm8 => Sys2Proof.Machine.execAddI c sf rn rd rot imm8 s
  | .addR c sf rn rd amount ty rm => Sys2Proof.Machine.execAddR c sf rn rd amount ty rm s
  | .addS c sf rn rd rs ty rm => Sys2Proof.Machine.execAddS c sf rn rd rs ty rm s
  | .adcI c sf rn rd rot imm8 => Sys2Proof.Machine.execAdcI c sf rn rd rot imm8 s
  | .adcR c sf rn rd amount ty rm => Sys2Proof.Machine.execAdcR c sf rn rd amount ty rm s
  | .adcS c sf rn rd rs ty rm => Sys2Proof.Machine.execAdcS c sf rn rd rs ty rm s
  | .sbcI c sf rn rd rot imm8 => Sys2Proof.Machine.execSbcI c sf rn rd rot imm8 s
  | .sbcR c sf rn rd amount ty rm => Sys2Proof.Machine.execSbcR c sf rn rd amount ty rm s
  | .sbcS c sf rn rd rs ty rm => Sys2Proof.Machine.execSbcS c sf rn rd rs ty rm s
  | .rscI c sf rn rd rot imm8 => Sys2Proof.Machine.execRscI c sf rn rd rot imm8 s
  | .rscR c sf rn rd amount ty rm => Sys2Proof.Machine.execRscR c sf rn rd amount ty rm s
  | .rscS c sf rn rd rs ty rm => Sys2Proof.Machine.execRscS c sf rn rd rs ty rm s
  | .tstI c rn rot imm8 => Sys2Proof.Machine.execTstI c rn rot imm8 s
  | .tstR c rn amount ty rm => Sys2Proof.Machine.execTstR c rn amount ty rm s
  | .tstS c rn rs ty rm => Sys2Proof.Machine.execTstS c rn rs ty rm s
  | .teqI c rn rot imm8 => Sys2Proof.Machine.execTeqI c rn rot imm8 s
  | .teqR c rn amount ty rm => Sys2Proof.Machine.execTeqR c rn amount ty rm s
  | .teqS c rn rs ty rm => Sys2Proof.Machine.execTeqS c rn rs ty rm s
  | .cmpI c rn rot imm8 => Sys2Proof.Machine.execCmpI c rn rot imm8 s
  | .cmpR c rn amount ty rm => Sys2Proof.Machine.execCmpR c rn amount ty rm s
  | .cmpS c rn rs ty rm => Sys2Proof.Machine.execCmpS c rn rs ty rm s
  | .cmnI c rn rot imm8 => Sys2Proof.Machine.execCmnI c rn rot imm8 s
  | .cmnR c rn amount ty rm => Sys2Proof.Machine.execCmnR c rn amount ty rm s
  | .cmnS c rn rs ty rm => Sys2Proof.Machine.execCmnS c rn rs ty rm s
  | .orrI c sf rn rd rot imm8 => Sys2Proof.Machine.execOrrI c sf rn rd rot imm8 s
  | .orrR c sf rn rd amount ty rm => Sys2Proof.Machine.execOrrR c sf rn rd amount ty rm s
  | .orrS c sf rn rd rs ty rm => Sys2Proof.Machine.execOrrS c sf rn rd rs ty rm s
  | .movI c sf rd rot imm8 => Sys2Proof.Machine.execMovI c sf rd rot imm8 s
  | .movR c sf rd amount ty rm => Sys2Proof.Machine.execMovR c sf rd amount ty rm s
  | .movS c sf rd rs ty rm => Sys2Proof.Machine.execMovS c sf rd rs ty rm s
  | .bicI c sf rn rd rot imm8 => Sys2Proof.Machine.execBicI c sf rn rd rot imm8 s
  | .bicR c sf rn rd amount ty rm => Sys2Proof.Machine.execBicR c sf rn rd amount ty rm s
  | .bicS c sf rn rd rs ty rm => Sys2Proof.Machine.execBicS c sf rn rd rs ty rm s
  | .mvnI c sf rd rot imm8 => Sys2Proof.Machine.execMvnI c sf rd rot imm8 s
  | .mvnR c sf rd amount ty rm => Sys2Proof.Machine.execMvnR c sf rd amount ty rm s
  | .mvnS c sf rd rs ty rm => Sys2Proof.Machine.execMvnS c sf rd rs ty rm s
  | .mrs c psr rd => Sys2Proof.Machine.execMrs c psr rd s
  | .msrR c psr mask rm => Sys2Proof.Machine.execMsrR c psr mask rm s
  | .msrI c psr mask rot imm8 => Sys2Proof.Machine.execMsrI c psr mask rot imm8 s
  | .bx c rm => Sys2Proof.Machine.execBx c rm s
  | .mul c sf rd rs rm => Sys2Proof.Machine.execMul c sf rd rs rm s
  | .mla c sf rd rn rs rm => Sys2Proof.Machine.execMla c sf rd rn rs rm s
  | .umull c sf rdHi rdLo rs rm => Sys2Proof.Machine.execUmull c sf rdHi rdLo rs rm s
  | .umlal c sf rdHi rdLo rs rm => Sys2Proof.Machine.execUmlal c sf rdHi rdLo rs rm s
  | .smull c sf rdHi rdLo rs rm => Sys2Proof.Machine.execSmull c sf rdHi rdLo rs rm s
  | .smlal c sf rdHi rdLo rs rm => Sys2Proof.Machine.execSmlal c sf rdHi rdLo rs rm s
  | .swp c rn rd rm => Sys2Proof.Machine.execSwp c rn rd rm s
  | .swpb c rn rd rm => Sys2Proof.Machine.execSwpb c rn rd rm s
  | .strhR c p u w rn rd rm => Sys2Proof.Machine.execStrhR c p u w rn rd rm s
  | .strhI c p u w rn rd immHi immLo => Sys2Proof.Machine.execStrhI c p u w rn rd immHi immLo s
  | .ldrhR c p u w rn rd rm => Sys2Proof.Machine.execLdrhR c p u w rn rd rm s
  | .ldrhI c p u w rn rd immHi immLo => Sys2Proof.Machine.execLdrhI c p u w rn rd immHi immLo s
  | .ldrsbR c p u w rn rd rm => Sys2Proof.Machine.execLdrsbR c p u w rn rd rm s
  | .ldrsbI c p u w rn rd immHi immLo => Sys2Proof.Machine.execLdrsbI c p u w rn rd immHi immLo s
  | .ldrshR c p u w rn rd rm => Sys2Proof.Machine.execLdrshR c p u w rn rd rm s
  | .ldrshI c p u w rn rd immHi immLo => Sys2Proof.Machine.execLdrshI c p u w rn rd immHi immLo s
  | .ldrI c p u w rn rd imm12 => Sys2Proof.Machine.execLdrI c p u w rn rd imm12 s
  | .ldrR c p u w rn rd amount ty rm => Sys2Proof.Machine.execLdrR c p u w rn rd amount ty rm s
  | .ldrbI c p u w rn rd imm12 => Sys2Proof.Machine.execLdrbI c p u w rn rd imm12 s
  | .ldrbR c p u w rn rd amount ty rm => Sys2Proof.Machine.execLdrbR c p u w rn rd amount ty rm s
  | .strI c p u w rn rd imm12 => Sys2Proof.Machine.execStrI c p u w rn rd imm12 s
  | .strR c p u w rn rd amount ty rm => Sys2Proof.Machine.execStrR c p u w rn rd amount ty rm s
  | .strbI c p u w rn rd imm12 => Sys2Proof.Machine.execStrbI c p u w rn rd imm12 s
  | .strbR c p u w rn rd amount ty rm => Sys2Proof.Machine.execStrbR c p u w rn rd amount ty rm s
  | .undefined c hi lo => Sys2Proof.Machine.execUndefined c hi lo s
  | .ldm c p u hat w rn list => Sys2Proof.Machine.execLdm c p u hat w rn list s
  | .stm c p u hat w rn list => Sys2Proof.Machine.execStm c p u hat w rn list s
  | .b c offset24 => Sys2Proof.Machine.execB c offset24 s
  | .bl c offset24 => Sys2Proof.Machine.execBl c offset24 s
  | .ldc c p u n w rn crd cp offset8 => Sys2Proof.Machine.execLdc c p u n w rn crd cp offset8 s
  | .stc c p u n w rn crd cp offset8 => Sys2Proof.Machine.execStc c p u n w rn crd cp offset8 s
  | .cdp c opc1 crn crd cp opc2 crm => Sys2Proof.Machine.execCdp c opc1 crn crd cp opc2 crm s
  | .mrc c opc1 crn rd cp opc2 crm => Sys2Proof.Machine.execMrc c opc1 crn rd cp opc2 crm s
  | .mcr c opc1 crn rd cp opc2 crm => Sys2Proof.Machine.execMcr c opc1 crn rd cp opc2 crm s
  | .swi c comment24 => Sys2Proof.Machine.execSwi c comment24 s
  -- THUMB state
  | .tLslI offset5 rs rd => Sys2Proof.Machine.execTLslI offset5 rs rd s
  | .tLsrI offset5 rs rd => Sys2Proof.Machine.execTLsrI offset5 rs rd s
  | .tAsrI offset5 rs rd => Sys2Proof.Machine.execTAsrI offset5 rs rd s
  | .tAddR rn rs rd => Sys2Proof.Machine.execTAddR rn rs rd s
  | .tSubR rn rs rd => Sys2Proof.Machine.execTSubR rn rs rd s
  | .tAddI3 imm3 rs rd => Sys2Proof.Machine.execTAddI3 imm3 rs rd s
  | .tSubI3 imm3 rs rd => Sys2Proof.Machine.execTSubI3 imm3 rs rd s
  | .tMovI rd imm8 => Sys2Proof.Machine.execTMovI rd imm8 s
  | .tCmpI rd imm8 => Sys2Proof.Machine.execTCmpI rd imm8 s
  | .tAddI8 rd imm8 => Sys2Proof.Machine.execTAddI8 rd imm8 s
  | .tSubI8 rd imm8 => Sys2Proof.Machine.execTSubI8 rd imm8 s
  | .tAnd rs rd => Sys2Proof.Machine.execTAnd rs rd s
  | .tEor rs rd => Sys2Proof.Machine.execTEor rs rd s
  | .tLslR rs rd => Sys2Proof.Machine.execTLslR rs rd s
  | .tLsrR rs rd => Sys2Proof.Machine.execTLsrR rs rd s
  | .tAsrR rs rd => Sys2Proof.Machine.execTAsrR rs rd s
  | .tAdc rs rd => Sys2Proof.Machine.execTAdc rs rd s
  | .tSbc rs rd => Sys2Proof.Machine.execTSbc rs rd s
  | .tRorR rs rd => Sys2Proof.Machine.execTRorR rs rd s
  | .tTst rs rd => Sys2Proof.Machine.execTTst rs rd s
  | .tNeg rs rd => Sys2Proof.Machine.execTNeg rs rd s
  | .tCmpR rs rd => Sys2Proof.Machine.execTCmpR rs rd s
  | .tCmn rs rd => Sys2Proof.Machine.execTCmn rs rd s
  | .tOrr rs rd => Sys2Proof.Machine.execTOrr rs rd s
  | .tMul rs rd => Sys2Proof.Machine.execTMul rs rd s
  | .tBic rs rd => Sys2Proof.Machine.execTBic rs rd s
  | .tMvn rs rd => Sys2Proof.Machine.execTMvn rs rd s
  | .tAddHi rs rd => Sys2Proof.Machine.execTAddHi rs rd s
  | .tCmpHi rs rd => Sys2Proof.Machine.execTCmpHi rs rd s
  | .tMovHi rs rd => Sys2Proof.Machine.execTMovHi rs rd s
  | .tBx rs => Sys2Proof.Machine.execTBx rs s
  | .tLdrPc rd word8 => Sys2Proof.Machine.execTLdrPc rd word8 s
  | .tStrR ro rb rd => Sys2Proof.Machine.execTStrR ro rb rd s
  | .tStrbR ro rb rd => Sys2Proof.Machine.execTStrbR ro rb rd s
  | .tLdrR ro rb rd => Sys2Proof.Machine.execTLdrR ro rb rd s
  | .tLdrbR ro rb rd => Sys2Proof.Machine.execTLdrbR ro rb rd s
  | .tStrhR ro rb rd => Sys2Proof.Machine.execTStrhR ro rb rd s
  | .tLdsbR ro rb rd => Sys2Proof.Machine.execTLdsbR ro rb rd s
  | .tLdrhR ro rb rd => Sys2Proof.Machine.execTLdrhR ro rb rd s
  | .tLdshR ro rb rd => Sys2Proof.Machine.execTLdshR ro rb rd s
  | .tStrI offset5 rb rd => Sys2Proof.Machine.execTStrI offset5 rb rd s
  | .tLdrI offset5 rb rd => Sys2Proof.Machine.execTLdrI offset5 rb rd s
  | .tStrbI offset5 rb rd => Sys2Proof.Machine.execTStrbI offset5 rb rd s
  | .tLdrbI offset5 rb rd => Sys2Proof.Machine.execTLdrbI offset5 rb rd s
  | .tStrhI offset5 rb rd => Sys2Proof.Machine.execTStrhI offset5 rb rd s
  | .tLdrhI offset5 rb rd => Sys2Proof.Machine.execTLdrhI offset5 rb rd s
  | .tStrSp rd word8 => Sys2Proof.Machine.execTStrSp rd word8 s
  | .tLdrSp rd word8 => Sys2Proof.Machine.execTLdrSp rd word8 s
  | .tAddPc rd word8 => Sys2Proof.Machine.execTAddPc rd word8 s
  | .tAddSp rd word8 => Sys2Proof.Machine.execTAddSp rd word8 s
  | .tSpAdd sword7 => Sys2Proof.Machine.execTSpAdd sword7 s
  | .tSpSub sword7 => Sys2Proof.Machine.execTSpSub sword7 s
  | .tPush r rlist => Sys2Proof.Machine.execTPush r rlist s
  | .tPop r rlist => Sys2Proof.Machine.execTPop r rlist s
  | .tStmia rb rlist => Sys2Proof.Machine.execTStmia rb rlist s
  | .tLdmia rb rlist => Sys2Proof.Machine.execTLdmia rb rlist s
  | .tBeq soffset8 => Sys2Proof.Machine.execTBeq soffset8 s
  | .tBne soffset8 => Sys2Proof.Machine.execTBne soffset8 s
  | .tBcs soffset8 => Sys2Proof.Machine.execTBcs soffset8 s
  | .tBcc soffset8 => Sys2Proof.Machine.execTBcc soffset8 s
  | .tBmi soffset8 => Sys2Proof.Machine.execTBmi soffset8 s
  | .tBpl soffset8 => Sys2Proof.Machine.execTBpl soffset8 s
  | .tBvs soffset8 => Sys2Proof.Machine.execTBvs soffset8 s
  | .tBvc soffset8 => Sys2Proof.Machine.execTBvc soffset8 s
  | .tBhi soffset8 => Sys2Proof.Machine.execTBhi soffset8 s
  | .tBls soffset8 => Sys2Proof.Machine.execTBls soffset8 s
  | .tBge soffset8 => Sys2Proof.Machine.execTBge soffset8 s
  | .tBlt soffset8 => Sys2Proof.Machine.execTBlt soffset8 s
  | .tBgt soffset8 => Sys2Proof.Machine.execTBgt soffset8 s
  | .tBle soffset8 => Sys2Proof.Machine.execTBle soffset8 s
  | .tUndefined imm8 => Sys2Proof.Machine.execTUndefined imm8 s
  | .tSwi value8 => Sys2Proof.Machine.execTSwi value8 s
  | .tB offset11 => Sys2Proof.Machine.execTB offset11 s
  | .tBlFirst offset11 => Sys2Proof.Machine.execTBlFirst offset11 s
  | .tBlSecond offset11 => Sys2Proof.Machine.execTBlSecond offset11 s

end Sys2Proof.Machine
end

