-- ==== Sys2Proof/Machine/Cycle.lean ====
section
/-! DEFINITION. The parts of one step (R130): the boundary tests, the fetch (R132), the instruction, and what ends a step. -/
namespace Sys2Proof.Machine

namespace State

/-- pc is aligned for CPSR.T (R29). -/
def pcAligned (s : State) : Bool :=
  if psrT s.cpsr then !s.pc.getLsbD 0 else s.pc.extractLsb' 0 2 == 0b00#2

/-- Fetch(CUR, ISZ) (R132): one read request at pc, of a halfword in THUMB state, of a word in ARM state; none is Fault. -/
def fetch (s : State) : Option Code :=
  if psrT s.cpsr then (s.memReadHalf true s.pc).map .thumb else (s.memReadWord true s.pc).map .arm

/-- The Reset entry with its latch cleared (R130 test 2, R310). -/
def takeReset (s : State) : State := ({ s with resetPending := false } : State).raise .reset s.pc

/-- The FastInterrupt entry with its latch cleared (R130 test 4, R317). -/
def takeFiq (s : State) : State := ({ s with fiqPending := false } : State).raise .fastInterrupt s.pc

/-- The NormalInterrupt entry with its latch cleared (R130 test 5, R316). -/
def takeIrq (s : State) : State := ({ s with irqPending := false } : State).raise .normalInterrupt s.pc

/-- The end of a step (R130 test 9): the cycle counter grows by CYCLE_INC; the next step has its own free values. -/
def tick (s : State) : State := { s with cycles := s.cycles + s.params.cycleInc, draws := s.draws + 1 }

/-- The instruction at pc (R130 tests 6 to 8): PrefetchAbort when its fetch faults, violation(NoMatchingOpcode) when it does
not decode, else its meaning. -/
def runFetched (s : State) : Result :=
  match s.fetch with
  | none => .next (s.raise .prefetchAbort s.pc)
  | some code =>
    match decode s.params.v4tExtras code with
    | .error _ => violation .noMatchingOpcode
    | .ok i => exec i s

/-- The tests of R130 in their order, for a core that is not halted. -/
def cycle (s : State) : Result :=
  if s.resetPending then .next s.takeReset
  else if s.mode?.isNone then violation .illegalMode
  else if !s.pcAligned then violation .misalignedPC
  else if s.fiqPending && !psrF s.cpsr then .next s.takeFiq
  else if s.irqPending && !psrI s.cpsr then .next s.takeIrq
  else s.runFetched

/-- The state a step leaves behind (R40, R330): the next state, or after a violation the state before the step with `halted`
set and nothing else changed (log 11). -/
def afterResult (s : State) : Result → State
  | .next s' => s'
  | .fault (.violation v) => { s with halted := some v }
  | .fault (.halted _) => s
  | .refused _ => s

end State

/-- A step that is no violation ends by the tick. -/
def tickResult : Result → Result
  | .next s => .next s.tick
  | .fault f => .fault f
  | .refused r => .refused r

end Sys2Proof.Machine
end

