-- ==== Sys2Proof/Machine/Step.lean ====
section
/-! DEFINITION. One step of the core (R130), the state it leaves, and the placing of one instruction where it is fetched. -/
namespace Sys2Proof.Machine

/-- One step (R130): a halted core has none (R40). -/
def step (s : State) : Host.Outcome State Fault Refusal :=
  match s.halted with
  | some v => .fault (.halted v)
  | none => tickResult s.cycle

/-- The state after one step, a violation included (R330, log 11). -/
def State.afterStep (s : State) : State := s.afterResult (step s)

/-- The instruction of `nbits` bits `w` stored where the next step fetches, with the state bit of its width: THUMB for 16
bits, ARM for 32 (log 20, 21). -/
def State.withFetchWord (s : State) (nbits w : Nat) : State :=
  let thumb := decide (nbits ≤ 16)
  { s with
    cpsr := setT s.cpsr thumb,
    mem := s.mem.writeBytes s.pc (layoutBytes (if thumb then 2 else 4) w) }

end Sys2Proof.Machine
end

