-- ==== Sys2Proof/Machine/Host.lean ====
section
/-! DEFINITION. What the environment may do to the core between two steps (R26, R139, R320, R366; log 18). No step does any of
these: each is an input of a run. -/
namespace Sys2Proof.Machine.State

/-- The host reads xb[m][r]; R15 reads pc (R26, R27). -/
def hostReadBank (s : State) (m : Mode) (r : Reg) : Word := s.regOr m r s.pc

/-- The host writes xb[m][r] verbatim; R15 is pc, which is not realigned (R26). -/
def hostWriteBank (s : State) (m : Mode) (r : Reg) (v : Word) : State :=
  match phys m r with
  | some p => s.setPhys p v
  | none => s.setPc v

/-- The host reads x[r], resolved by the current mode (R26). While CPSR.M is illegal Mode is undefined (R36) and what a logical
access does is left open: none, for every register, R0 to R7 and R15 too (DESIGN CHOICE, log 26). -/
def hostRead (s : State) (r : Reg) : Option Word := s.mode?.map (fun m => s.hostReadBank m r)

/-- The host writes x[r], resolved by the current mode (R26). While CPSR.M is illegal Mode is undefined (R36) and what a logical
access does is left open: none, nothing is written, for every register, R0 to R7 and R15 too (DESIGN CHOICE, log 26). -/
def hostWrite (s : State) (r : Reg) (v : Word) : Option State := s.mode?.map (fun m => s.hostWriteBank m r v)

/-- The host writes all of CPSR verbatim (R26, R33). -/
def hostWriteCpsr (s : State) (v : Word) : State := s.setCpsr v

/-- The host reads an SPSR; an undefined one has no answer (R26, R37). -/
def hostReadSpsr (s : State) (e : ExcMode) : Option Word :=
  if s.spsrDef.get e then some (s.spsr.get e) else none

/-- The host writes all of an SPSR, which defines it (R26). -/
def hostWriteSpsr (s : State) (e : ExcMode) (v : Word) : State := (s.setSpsr e v).defineSpsr e

/-- The host's irq(): the latch is set (R320). -/
def hostIrq (s : State) : State := { s with irqPending := true }

/-- The host's fiq() (R320). -/
def hostFiq (s : State) : State := { s with fiqPending := true }

/-- The host's reset(): a warm reset at the next boundary (R320, R351). -/
def hostReset (s : State) : State := { s with resetPending := true }

/-- The host stores a byte behind the Memory Interface (R70, R366). -/
def hostStore (s : State) (a : Word) (b : Byte) : State := { s with mem := s.mem.write a.toNat b }

/-- The host lays out the windows of the address space (R70, R71); abort() is an absent window (R313, R366). -/
def hostMap (s : State) (regions : List Region) : State := { s with regions := regions }

/-- The host chooses what the coprocessors will answer (R240, R366). -/
def hostCop (s : State) (answers : List CopAnswer) : State := { s with copAnswers := answers }

/-- PowerOn() (R350): construction over the environment of `s`, which leaves a halted state too, then the Reset entry as one
step: `step (construct s)`. -/
def hostPowerOn (s : State) : State := s.construct

end Sys2Proof.Machine.State
end

