-- ==== Sys2Proof/Machine/Run.lean ====
section
/-! DEFINITION. The end of a run. The hardware defines none (R140): what stands here is the convention that R365 recommends for models
and tests, no property of the core (log 25). -/
namespace Sys2Proof.Machine

/-- A run with the end address `endAt` ends in this state: a boundary with pc at the end address, of a core that is not
halted (R140, R365; log 25). -/
def State.atEnd (endAt : Word) (s : State) : Bool := s.halted.isNone && s.pc == endAt

/-- The end state of a run: the first boundary from `s`, within `steps` steps, at which it ends. None where it has not
ended by then, and where a violation halts the core before: `halted` is a failure and no end (R365; log 25). The
environment does nothing during this run. -/
def State.runTo (endAt : Word) : Nat → State → Option State
  | 0, s => if s.atEnd endAt then some s else none
  | n + 1, s =>
    if s.atEnd endAt then some s
    else
      match step s with
      | .next t => t.runTo endAt n
      | .fault _ => none
      | .refused _ => none

end Sys2Proof.Machine
end

