-- ==== Sys2Proof/Safety.lean ====
section
/-! DEFINITION. What counts as a legal state and the words in which claims are made: when an instruction runs, what it keeps,
and tables, written from the rules of spec/ and not from the meanings, that say of each instruction which computation,
transfer or branch it is and which operand combinations are violations. -/
namespace Sys2Proof

/-- The condition field (R91); a THUMB instruction always executes (R133), and the condition of format 16 is its own effect
(R267). -/
def Instr.condition : Instr → Cond
  | .andI c .. | .andR c .. | .andS c .. | .eorI c .. | .eorR c .. | .eorS c .. | .subI c .. | .subR c ..
  | .subS c .. | .rsbI c .. | .rsbR c .. | .rsbS c .. | .addI c .. | .addR c .. | .addS c .. | .adcI c ..
  | .adcR c .. | .adcS c .. | .sbcI c .. | .sbcR c .. | .sbcS c .. | .rscI c .. | .rscR c .. | .rscS c ..
  | .tstI c .. | .tstR c .. | .tstS c .. | .teqI c .. | .teqR c .. | .teqS c .. | .cmpI c .. | .cmpR c ..
  | .cmpS c .. | .cmnI c .. | .cmnR c .. | .cmnS c .. | .orrI c .. | .orrR c .. | .orrS c .. | .movI c ..
  | .movR c .. | .movS c .. | .bicI c .. | .bicR c .. | .bicS c .. | .mvnI c .. | .mvnR c .. | .mvnS c ..
  | .mrs c .. | .msrR c .. | .msrI c .. | .bx c .. | .mul c .. | .mla c .. | .umull c .. | .umlal c ..
  | .smull c .. | .smlal c .. | .swp c .. | .swpb c .. | .strhR c .. | .strhI c .. | .ldrhR c .. | .ldrhI c ..
  | .ldrsbR c .. | .ldrsbI c .. | .ldrshR c .. | .ldrshI c .. | .ldrI c .. | .ldrR c .. | .ldrbI c ..
  | .ldrbR c .. | .strI c .. | .strR c .. | .strbI c .. | .strbR c .. | .undefined c .. | .ldm c .. | .stm c ..
  | .b c .. | .bl c .. | .ldc c .. | .stc c .. | .cdp c .. | .mrc c .. | .mcr c .. | .swi c .. => c
  | .tLslI .. | .tLsrI .. | .tAsrI .. | .tAddR .. | .tSubR .. | .tAddI3 .. | .tSubI3 .. | .tMovI .. | .tCmpI ..
  | .tAddI8 .. | .tSubI8 .. | .tAnd .. | .tEor .. | .tLslR .. | .tLsrR .. | .tAsrR .. | .tAdc .. | .tSbc ..
  | .tRorR .. | .tTst .. | .tNeg .. | .tCmpR .. | .tCmn .. | .tOrr .. | .tMul .. | .tBic .. | .tMvn ..
  | .tAddHi .. | .tCmpHi .. | .tMovHi .. | .tBx .. | .tLdrPc .. | .tStrR .. | .tStrbR .. | .tLdrR ..
  | .tLdrbR .. | .tStrhR .. | .tLdsbR .. | .tLdrhR .. | .tLdshR .. | .tStrI .. | .tLdrI .. | .tStrbI ..
  | .tLdrbI .. | .tStrhI .. | .tLdrhI .. | .tStrSp .. | .tLdrSp .. | .tAddPc .. | .tAddSp .. | .tSpAdd ..
  | .tSpSub .. | .tPush .. | .tPop .. | .tStmia .. | .tLdmia .. | .tBeq .. | .tBne .. | .tBcs .. | .tBcc ..
  | .tBmi .. | .tBpl .. | .tBvs .. | .tBvc .. | .tBhi .. | .tBls .. | .tBge .. | .tBlt .. | .tBgt .. | .tBle ..
  | .tUndefined .. | .tSwi .. | .tB .. | .tBlFirst .. | .tBlSecond .. => .al

/-- The size of an instruction in bytes (R90). -/
def Instr.size (i : Instr) : Word := if i.isThumb then 2#32 else 4#32

namespace Machine

/-! ### Legal states -/

/-- A legal state: storage in canonical form, one of the seven modes (R36), pc aligned for the state bit (R29), and vectors at
word addresses (R71). -/
structure State.Inv (s : State) : Prop where
  mem  : s.mem.wf = true
  mode : s.mode?.isSome = true
  pc   : s.pcAligned = true
  base : s.params.vectorBase.extractLsb' 0 2 = 0b00#2

/-- `i` runs in the legal state `s`, whose mode is `m`: the state bit is the one of its instruction set (R35) and its
condition passes (R133). -/
structure Runs (i : Instr) (s : State) (m : Mode) : Prop where
  inv   : s.Inv
  mode  : s.mode? = some m
  state : psrT s.cpsr = i.isThumb
  cond  : condPassed i.condition s.cpsr = true

/-! ### Frames -/

/-- The record of device writes after the write requests `ws`, in their order (R60). -/
def State.recorded (s : State) (ws : List DeviceWrite) : List DeviceWrite :=
  (ws.filter (fun w => s.isDevice w.address)).reverse ++ s.deviceWrites

/-- Going from `s` to `t` leaves everything but pc, CPSR, the registers `written` and the bytes `stored`. -/
structure Keeps (written : List PhysReg) (stored : List Nat) (s t : State) : Prop where
  regs         : ∀ p, p ∉ written → t.getPhys p = s.getPhys p
  mem          : ∀ n, n ∉ stored → t.mem.read n = s.mem.read n
  spsr         : t.spsr = s.spsr
  spsrDef      : t.spsrDef = s.spsrDef
  irqPending   : t.irqPending = s.irqPending
  fiqPending   : t.fiqPending = s.fiqPending
  resetPending : t.resetPending = s.resetPending
  halted       : t.halted = s.halted
  cycles       : t.cycles = s.cycles
  regions      : t.regions = s.regions
  deviceWrites : t.deviceWrites = s.deviceWrites
  copAnswers   : t.copAnswers = s.copAnswers
  copRequests  : t.copRequests = s.copRequests
  params       : t.params = s.params
  draws        : t.draws = s.draws

/-- The status register `q` is `p` with its flags N, Z, C, V replaced and no other bit changed. -/
structure FlagsBecome (p q : Word) (n z c v : Bool) : Prop where
  n : psrN q = n
  z : psrZ q = z
  c : psrC q = c
  v : psrV q = v
  rest : q.extractLsb' 0 28 = p.extractLsb' 0 28

/-- What taking an exception of kind `k` with return address `ret` does (R305). -/
structure Entered (k : ExcKind) (ret : Word) (s t : State) : Prop where
  spsr      : t.spsr.get k.target = s.cpsr
  defined   : t.spsrDef.get k.target = true
  otherSpsr : ∀ e, e ≠ k.target → t.spsr.get e = s.spsr.get e ∧ t.spsrDef.get e = s.spsrDef.get e
  mode      : t.mode? = some k.target.mode
  irqOff    : psrI t.cpsr = true
  fiqOff    : psrF t.cpsr = (k.forcesF || psrF s.cpsr)
  arm       : psrT t.cpsr = false
  upper     : t.cpsr.extractLsb' 8 24 = s.cpsr.extractLsb' 8 24
  link      : t.getPhys (.lr k.target.mode.bank) = ret
  regs      : ∀ p, p ≠ .lr k.target.mode.bank → t.getPhys p = s.getPhys p
  pc        : t.pc = s.params.vectorBase + k.offset
  others    : t = { s with regs := t.regs, pc := t.pc, cpsr := t.cpsr, spsr := t.spsr, spsrDef := t.spsrDef }

/-! ### Computations (R154 to R169, R252 to R256, R263, R264) -/

/-- The computations; TST, TEQ, CMP and CMN are those of AND, EOR, SUB and ADD without a destination (R170). -/
inductive AluOp where
  | andOp | eor | sub | rsb | add | adc | sbc | rsc | orr | mov | bic | mvn
deriving DecidableEq, Repr

/-- One computation: what it is, whether it sets the flags, its destination, x[Rn], and the shifter operand. -/
structure DataOp where
  op       : AluOp
  setFlags : Bool
  dest     : Option Reg
  a        : Word
  b        : ShifterOut

/-- Exact arithmetic, narrowed at the end (R9, R170): the unsigned and the signed exact result of `f`; C is no borrow for a
subtraction and a carry past 32 bits for an addition; V is a signed result out of range. -/
def exactResult (subtracts : Bool) (f : Int → Int → Int) (a b : Word) : AluResult :=
  let unsigned := f (a.toNat : Int) (b.toNat : Int)
  let signed := f a.toInt b.toInt
  { value := BitVec.ofInt 32 unsigned,
    c := if subtracts then decide (0 ≤ unsigned) else decide (2 ^ 32 ≤ unsigned),
    v := decide (signed < -2 ^ 31) || decide (2 ^ 31 ≤ signed) }

/-- The result and the C and V flags of a computation under the status register `p`. -/
def DataOp.expected (d : DataOp) (p : Word) : AluResult :=
  let carry : Int := if psrC p then 1 else 0
  let bits (v : Word) : AluResult := { value := v, c := d.b.carry, v := psrV p }
  match d.op with
  | .andOp => bits (d.a &&& d.b.value)
  | .eor => bits (d.a ^^^ d.b.value)
  | .orr => bits (d.a ||| d.b.value)
  | .bic => bits (d.a &&& ~~~d.b.value)
  | .mov => bits d.b.value
  | .mvn => bits (~~~d.b.value)
  | .sub => exactResult true (fun a b => a - b) d.a d.b.value
  | .rsb => exactResult true (fun a b => b - a) d.a d.b.value
  | .sbc => exactResult true (fun a b => a - b - (1 - carry)) d.a d.b.value
  | .rsc => exactResult true (fun a b => b - a - (1 - carry)) d.a d.b.value
  | .add => exactResult false (fun a b => a + b) d.a d.b.value
  | .adc => exactResult false (fun a b => a + b + carry) d.a d.b.value

/-- The data-processing instructions of both states. -/
def dataOp? (s : State) (m : Mode) : Instr → Option DataOp
  | .andI _ sf rn rd rot imm8 => some ⟨.andOp, sf, some rd, s.x m rn, s.operandImm rot imm8⟩
  | .andR _ sf rn rd amount ty rm => some ⟨.andOp, sf, some rd, s.x m rn, s.operandReg m amount ty rm⟩
  | .andS _ sf rn rd rs ty rm => some ⟨.andOp, sf, some rd, s.xLate m rn, s.operandShifted m rs ty rm⟩
  | .eorI _ sf rn rd rot imm8 => some ⟨.eor, sf, some rd, s.x m rn, s.operandImm rot imm8⟩
  | .eorR _ sf rn rd amount ty rm => some ⟨.eor, sf, some rd, s.x m rn, s.operandReg m amount ty rm⟩
  | .eorS _ sf rn rd rs ty rm => some ⟨.eor, sf, some rd, s.xLate m rn, s.operandShifted m rs ty rm⟩
  | .subI _ sf rn rd rot imm8 => some ⟨.sub, sf, some rd, s.x m rn, s.operandImm rot imm8⟩
  | .subR _ sf rn rd amount ty rm => some ⟨.sub, sf, some rd, s.x m rn, s.operandReg m amount ty rm⟩
  | .subS _ sf rn rd rs ty rm => some ⟨.sub, sf, some rd, s.xLate m rn, s.operandShifted m rs ty rm⟩
  | .rsbI _ sf rn rd rot imm8 => some ⟨.rsb, sf, some rd, s.x m rn, s.operandImm rot imm8⟩
  | .rsbR _ sf rn rd amount ty rm => some ⟨.rsb, sf, some rd, s.x m rn, s.operandReg m amount ty rm⟩
  | .rsbS _ sf rn rd rs ty rm => some ⟨.rsb, sf, some rd, s.xLate m rn, s.operandShifted m rs ty rm⟩
  | .addI _ sf rn rd rot imm8 => some ⟨.add, sf, some rd, s.x m rn, s.operandImm rot imm8⟩
  | .addR _ sf rn rd amount ty rm => some ⟨.add, sf, some rd, s.x m rn, s.operandReg m amount ty rm⟩
  | .addS _ sf rn rd rs ty rm => some ⟨.add, sf, some rd, s.xLate m rn, s.operandShifted m rs ty rm⟩
  | .adcI _ sf rn rd rot imm8 => some ⟨.adc, sf, some rd, s.x m rn, s.operandImm rot imm8⟩
  | .adcR _ sf rn rd amount ty rm => some ⟨.adc, sf, some rd, s.x m rn, s.operandReg m amount ty rm⟩
  | .adcS _ sf rn rd rs ty rm => some ⟨.adc, sf, some rd, s.xLate m rn, s.operandShifted m rs ty rm⟩
  | .sbcI _ sf rn rd rot imm8 => some ⟨.sbc, sf, some rd, s.x m rn, s.operandImm rot imm8⟩
  | .sbcR _ sf rn rd amount ty rm => some ⟨.sbc, sf, some rd, s.x m rn, s.operandReg m amount ty rm⟩
  | .sbcS _ sf rn rd rs ty rm => some ⟨.sbc, sf, some rd, s.xLate m rn, s.operandShifted m rs ty rm⟩
  | .rscI _ sf rn rd rot imm8 => some ⟨.rsc, sf, some rd, s.x m rn, s.operandImm rot imm8⟩
  | .rscR _ sf rn rd amount ty rm => some ⟨.rsc, sf, some rd, s.x m rn, s.operandReg m amount ty rm⟩
  | .rscS _ sf rn rd rs ty rm => some ⟨.rsc, sf, some rd, s.xLate m rn, s.operandShifted m rs ty rm⟩
  | .tstI _ rn rot imm8 => some ⟨.andOp, true, none, s.x m rn, s.operandImm rot imm8⟩
  | .tstR _ rn amount ty rm => some ⟨.andOp, true, none, s.x m rn, s.operandReg m amount ty rm⟩
  | .tstS _ rn rs ty rm => some ⟨.andOp, true, none, s.xLate m rn, s.operandShifted m rs ty rm⟩
  | .teqI _ rn rot imm8 => some ⟨.eor, true, none, s.x m rn, s.operandImm rot imm8⟩
  | .teqR _ rn amount ty rm => some ⟨.eor, true, none, s.x m rn, s.operandReg m amount ty rm⟩
  | .teqS _ rn rs ty rm => some ⟨.eor, true, none, s.xLate m rn, s.operandShifted m rs ty rm⟩
  | .cmpI _ rn rot imm8 => some ⟨.sub, true, none, s.x m rn, s.operandImm rot imm8⟩
  | .cmpR _ rn amount ty rm => some ⟨.sub, true, none, s.x m rn, s.operandReg m amount ty rm⟩
  | .cmpS _ rn rs ty rm => some ⟨.sub, true, none, s.xLate m rn, s.operandShifted m rs ty rm⟩
  | .cmnI _ rn rot imm8 => some ⟨.add, true, none, s.x m rn, s.operandImm rot imm8⟩
  | .cmnR _ rn amount ty rm => some ⟨.add, true, none, s.x m rn, s.operandReg m amount ty rm⟩
  | .cmnS _ rn rs ty rm => some ⟨.add, true, none, s.xLate m rn, s.operandShifted m rs ty rm⟩
  | .orrI _ sf rn rd rot imm8 => some ⟨.orr, sf, some rd, s.x m rn, s.operandImm rot imm8⟩
  | .orrR _ sf rn rd amount ty rm => some ⟨.orr, sf, some rd, s.x m rn, s.operandReg m amount ty rm⟩
  | .orrS _ sf rn rd rs ty rm => some ⟨.orr, sf, some rd, s.xLate m rn, s.operandShifted m rs ty rm⟩
  | .movI _ sf rd rot imm8 => some ⟨.mov, sf, some rd, 0x00000000#32, s.operandImm rot imm8⟩
  | .movR _ sf rd amount ty rm => some ⟨.mov, sf, some rd, 0x00000000#32, s.operandReg m amount ty rm⟩
  | .movS _ sf rd rs ty rm => some ⟨.mov, sf, some rd, 0x00000000#32, s.operandShifted m rs ty rm⟩
  | .bicI _ sf rn rd rot imm8 => some ⟨.bic, sf, some rd, s.x m rn, s.operandImm rot imm8⟩
  | .bicR _ sf rn rd amount ty rm => some ⟨.bic, sf, some rd, s.x m rn, s.operandReg m amount ty rm⟩
  | .bicS _ sf rn rd rs ty rm => some ⟨.bic, sf, some rd, s.xLate m rn, s.operandShifted m rs ty rm⟩
  | .mvnI _ sf rd rot imm8 => some ⟨.mvn, sf, some rd, 0x00000000#32, s.operandImm rot imm8⟩
  | .mvnR _ sf rd amount ty rm => some ⟨.mvn, sf, some rd, 0x00000000#32, s.operandReg m amount ty rm⟩
  | .mvnS _ sf rd rs ty rm => some ⟨.mvn, sf, some rd, 0x00000000#32, s.operandShifted m rs ty rm⟩
  | .tLslI offset5 rs rd => some ⟨.mov, true, some (loReg rd), 0x00000000#32, s.operandReg m offset5 .lsl (loReg rs)⟩
  | .tLsrI offset5 rs rd => some ⟨.mov, true, some (loReg rd), 0x00000000#32, s.operandReg m offset5 .lsr (loReg rs)⟩
  | .tAsrI offset5 rs rd => some ⟨.mov, true, some (loReg rd), 0x00000000#32, s.operandReg m offset5 .asr (loReg rs)⟩
  | .tAddR rn rs rd => some ⟨.add, true, some (loReg rd), s.x m (loReg rs), plainOperand s.cpsr (s.x m (loReg rn))⟩
  | .tSubR rn rs rd => some ⟨.sub, true, some (loReg rd), s.x m (loReg rs), plainOperand s.cpsr (s.x m (loReg rn))⟩
  | .tAddI3 imm3 rs rd => some ⟨.add, true, some (loReg rd), s.x m (loReg rs), plainOperand s.cpsr (imm3.setWidth 32)⟩
  | .tSubI3 imm3 rs rd => some ⟨.sub, true, some (loReg rd), s.x m (loReg rs), plainOperand s.cpsr (imm3.setWidth 32)⟩
  | .tMovI rd imm8 => some ⟨.mov, true, some (loReg rd), 0x00000000#32, plainOperand s.cpsr (imm8.setWidth 32)⟩
  | .tCmpI rd imm8 => some ⟨.sub, true, none, s.x m (loReg rd), plainOperand s.cpsr (imm8.setWidth 32)⟩
  | .tAddI8 rd imm8 => some ⟨.add, true, some (loReg rd), s.x m (loReg rd), plainOperand s.cpsr (imm8.setWidth 32)⟩
  | .tSubI8 rd imm8 => some ⟨.sub, true, some (loReg rd), s.x m (loReg rd), plainOperand s.cpsr (imm8.setWidth 32)⟩
  | .tAnd rs rd => some ⟨.andOp, true, some (loReg rd), s.x m (loReg rd), plainOperand s.cpsr (s.x m (loReg rs))⟩
  | .tEor rs rd => some ⟨.eor, true, some (loReg rd), s.x m (loReg rd), plainOperand s.cpsr (s.x m (loReg rs))⟩
  | .tAdc rs rd => some ⟨.adc, true, some (loReg rd), s.x m (loReg rd), plainOperand s.cpsr (s.x m (loReg rs))⟩
  | .tSbc rs rd => some ⟨.sbc, true, some (loReg rd), s.x m (loReg rd), plainOperand s.cpsr (s.x m (loReg rs))⟩
  | .tOrr rs rd => some ⟨.orr, true, some (loReg rd), s.x m (loReg rd), plainOperand s.cpsr (s.x m (loReg rs))⟩
  | .tBic rs rd => some ⟨.bic, true, some (loReg rd), s.x m (loReg rd), plainOperand s.cpsr (s.x m (loReg rs))⟩
  | .tLslR rs rd => some ⟨.mov, true, some (loReg rd), 0x00000000#32, shiftByReg .lsl (shiftAmount (s.x m (loReg rs))) (s.x m (loReg rd)) (psrC s.cpsr)⟩
  | .tLsrR rs rd => some ⟨.mov, true, some (loReg rd), 0x00000000#32, shiftByReg .lsr (shiftAmount (s.x m (loReg rs))) (s.x m (loReg rd)) (psrC s.cpsr)⟩
  | .tAsrR rs rd => some ⟨.mov, true, some (loReg rd), 0x00000000#32, shiftByReg .asr (shiftAmount (s.x m (loReg rs))) (s.x m (loReg rd)) (psrC s.cpsr)⟩
  | .tRorR rs rd => some ⟨.mov, true, some (loReg rd), 0x00000000#32, shiftByReg .ror (shiftAmount (s.x m (loReg rs))) (s.x m (loReg rd)) (psrC s.cpsr)⟩
  | .tTst rs rd => some ⟨.andOp, true, none, s.x m (loReg rd), plainOperand s.cpsr (s.x m (loReg rs))⟩
  | .tCmpR rs rd => some ⟨.sub, true, none, s.x m (loReg rd), plainOperand s.cpsr (s.x m (loReg rs))⟩
  | .tCmn rs rd => some ⟨.add, true, none, s.x m (loReg rd), plainOperand s.cpsr (s.x m (loReg rs))⟩
  | .tNeg rs rd => some ⟨.rsb, true, some (loReg rd), s.x m (loReg rs), plainOperand s.cpsr (0x00000000#32)⟩
  | .tMvn rs rd => some ⟨.mvn, true, some (loReg rd), 0x00000000#32, plainOperand s.cpsr (s.x m (loReg rs))⟩
  | .tAddHi rs rd => some ⟨.add, false, some rd, s.x m rd, plainOperand s.cpsr (s.x m rs)⟩
  | .tMovHi rs rd => some ⟨.mov, false, some rd, 0x00000000#32, plainOperand s.cpsr (s.x m rs)⟩
  | .tCmpHi rs rd => some ⟨.sub, true, none, s.x m rd, plainOperand s.cpsr (s.x m rs)⟩
  | .tAddPc rd word8 => some ⟨.add, false, some (loReg rd), s.pcBase, plainOperand s.cpsr (word8.setWidth 32 <<< 2)⟩
  | .tAddSp rd word8 => some ⟨.add, false, some (loReg rd), s.x m Reg.sp, plainOperand s.cpsr (word8.setWidth 32 <<< 2)⟩
  | .tSpAdd sword7 => some ⟨.add, false, some Reg.sp, s.x m Reg.sp, plainOperand s.cpsr (sword7.setWidth 32 <<< 2)⟩
  | .tSpSub sword7 => some ⟨.sub, false, some Reg.sp, s.x m Reg.sp, plainOperand s.cpsr (sword7.setWidth 32 <<< 2)⟩
  | _ => none

/-- The physical registers a computation writes. -/
def DataOp.written (d : DataOp) (m : Mode) : List PhysReg := (d.dest.bind (phys m)).toList

/-- What a computation with a destination other than R15 leaves (R150, R152): its result in the destination, the flags if it
sets them, pc past the instruction of `size` bytes, and nothing else. -/
structure DataDone (d : DataOp) (size : Word) (m : Mode) (s t : State) : Prop where
  dest    : ∀ rd p, d.dest = some rd → phys m rd = some p → t.getPhys p = (d.expected s.cpsr).value
  flags   : d.setFlags = true → FlagsBecome s.cpsr t.cpsr (d.expected s.cpsr).value.msb
    (decide ((d.expected s.cpsr).value.toNat = 0)) (d.expected s.cpsr).c (d.expected s.cpsr).v
  noFlags : d.setFlags = false → t.cpsr = s.cpsr
  pc      : t.pc = s.pc + size
  keeps   : Keeps (d.written m) [] s t

/-! ### Multiplications (R181 to R186, R255) -/

/-- A multiplication with a 32-bit result: the flags bit, the destination, and the exact result before it is narrowed. -/
structure MulOp where
  setFlags : Bool
  rd       : Reg
  product  : Nat

/-- MUL, MLA and THUMB MUL. -/
def mulOp? (s : State) (m : Mode) : Instr → Option MulOp
  | .mul _ sf rd rs rm => some ⟨sf, rd, (s.x m rm).toNat * (s.x m rs).toNat⟩
  | .mla _ sf rd rn rs rm => some ⟨sf, rd, (s.x m rm).toNat * (s.x m rs).toNat + (s.x m rn).toNat⟩
  | .tMul rs rd => some ⟨true, loReg rd, (s.x m (loReg rs)).toNat * (s.x m (loReg rd)).toNat⟩
  | _ => none

/-- A long multiplication: the flags bit, the destinations, and the exact result before it is narrowed to 64 bits. -/
structure LongMulOp where
  setFlags : Bool
  rdHi     : Reg
  rdLo     : Reg
  product  : Int

/-- UMULL, UMLAL, SMULL, SMLAL. -/
def longMulOp? (s : State) (m : Mode) : Instr → Option LongMulOp
  | .umull _ sf rdHi rdLo rs rm => some ⟨sf, rdHi, rdLo, ((s.x m rm).toNat * (s.x m rs).toNat : Nat)⟩
  | .umlal _ sf rdHi rdLo rs rm =>
    some ⟨sf, rdHi, rdLo, ((s.x m rm).toNat * (s.x m rs).toNat + (s.x m rdHi ++ s.x m rdLo).toNat : Nat)⟩
  | .smull _ sf rdHi rdLo rs rm => some ⟨sf, rdHi, rdLo, (s.x m rm).toInt * (s.x m rs).toInt⟩
  | .smlal _ sf rdHi rdLo rs rm =>
    some ⟨sf, rdHi, rdLo, (s.x m rm).toInt * (s.x m rs).toInt + (s.x m rdHi ++ s.x m rdLo).toInt⟩
  | _ => none

/-! ### Single transfers (R190 to R200, R257 to R262) -/

/-- The width of a data access (R67). -/
inductive Width where
  | byte | half | word
deriving DecidableEq, Repr

/-- The number of bytes of an access. -/
def Width.bytes : Width → Nat
  | .byte => 1
  | .half => 2
  | .word => 4

/-- The address of the one request an access makes: a word access drops the low two bits (R65). -/
def Width.request (w : Width) (a : Word) : Word :=
  match w with
  | .word => a &&& 0xFFFFFFFC#32
  | .half => a
  | .byte => a

/-- The access is defined: a halfword at an even address, and under MISALIGN = refuse a word at a multiple of 4 (R65). -/
def Width.defined (w : Width) (s : State) (a : Word) : Prop :=
  match w with
  | .word => s.params.misalign = .rotate ∨ a.toNat % 4 = 0
  | .half => a.toNat % 2 = 0
  | .byte => True

/-- The bytes a store of `v` sends, least significant first (R63). -/
def Width.bytesOf (w : Width) (v : Word) : List Byte := (List.range w.bytes).map (fun k => v.extractLsb' (8 * k) 8)

/-- The byte addresses of an access. -/
def Width.cells (w : Width) (a : Word) : List Nat := (List.range w.bytes).map (fun k => (w.request a).toNat + k)

/-- A load: width, sign extension, destination, address with write-back. -/
structure LoadOp where
  width  : Width
  signed : Bool
  rd     : Reg
  ad     : Address

/-- A store: width, value, address with write-back. -/
structure StoreOp where
  width : Width
  value : Word
  ad    : Address

/-- The single loads of both states. -/
def loadOp? (s : State) (m : Mode) : Instr → Option LoadOp
  | .ldrI _ p u w rn rd imm12 => some ⟨.word, false, rd, indexedAddress p u w rn (s.x m rn) (imm12.setWidth 32)⟩
  | .ldrR _ p u w rn rd amount ty rm => some ⟨.word, false, rd, indexedAddress p u w rn (s.x m rn) (s.operandReg m amount ty rm).value⟩
  | .ldrbI _ p u w rn rd imm12 => some ⟨.byte, false, rd, indexedAddress p u w rn (s.x m rn) (imm12.setWidth 32)⟩
  | .ldrbR _ p u w rn rd amount ty rm => some ⟨.byte, false, rd, indexedAddress p u w rn (s.x m rn) (s.operandReg m amount ty rm).value⟩
  | .ldrhR _ p u w rn rd rm => some ⟨.half, false, rd, indexedAddress p u w rn (s.x m rn) (s.x m rm)⟩
  | .ldrhI _ p u w rn rd immHi immLo => some ⟨.half, false, rd, indexedAddress p u w rn (s.x m rn) ((immHi ++ immLo).setWidth 32)⟩
  | .ldrsbR _ p u w rn rd rm => some ⟨.byte, true, rd, indexedAddress p u w rn (s.x m rn) (s.x m rm)⟩
  | .ldrsbI _ p u w rn rd immHi immLo => some ⟨.byte, true, rd, indexedAddress p u w rn (s.x m rn) ((immHi ++ immLo).setWidth 32)⟩
  | .ldrshR _ p u w rn rd rm => some ⟨.half, true, rd, indexedAddress p u w rn (s.x m rn) (s.x m rm)⟩
  | .ldrshI _ p u w rn rd immHi immLo => some ⟨.half, true, rd, indexedAddress p u w rn (s.x m rn) ((immHi ++ immLo).setWidth 32)⟩
  | .tLdrPc rd word8 => some ⟨.word, false, loReg rd, .plain (s.pcBase + (word8.setWidth 32 <<< 2))⟩
  | .tLdrR ro rb rd => some ⟨.word, false, loReg rd, .plain (s.x m (loReg rb) + s.x m (loReg ro))⟩
  | .tLdrbR ro rb rd => some ⟨.byte, false, loReg rd, .plain (s.x m (loReg rb) + s.x m (loReg ro))⟩
  | .tLdsbR ro rb rd => some ⟨.byte, true, loReg rd, .plain (s.x m (loReg rb) + s.x m (loReg ro))⟩
  | .tLdrhR ro rb rd => some ⟨.half, false, loReg rd, .plain (s.x m (loReg rb) + s.x m (loReg ro))⟩
  | .tLdshR ro rb rd => some ⟨.half, true, loReg rd, .plain (s.x m (loReg rb) + s.x m (loReg ro))⟩
  | .tLdrI offset5 rb rd => some ⟨.word, false, loReg rd, .plain (s.x m (loReg rb) + (offset5.setWidth 32 <<< 2))⟩
  | .tLdrbI offset5 rb rd => some ⟨.byte, false, loReg rd, .plain (s.x m (loReg rb) + offset5.setWidth 32)⟩
  | .tLdrhI offset5 rb rd => some ⟨.half, false, loReg rd, .plain (s.x m (loReg rb) + (offset5.setWidth 32 <<< 1))⟩
  | .tLdrSp rd word8 => some ⟨.word, false, loReg rd, .plain (s.x m Reg.sp + (word8.setWidth 32 <<< 2))⟩
  | _ => none

/-- The single stores of both states. R15 stores CUR + 12 (R134). -/
def storeOp? (s : State) (m : Mode) : Instr → Option StoreOp
  | .strI _ p u w rn rd imm12 => some ⟨.word, s.xLate m rd, indexedAddress p u w rn (s.x m rn) (imm12.setWidth 32)⟩
  | .strR _ p u w rn rd amount ty rm => some ⟨.word, s.xLate m rd, indexedAddress p u w rn (s.x m rn) (s.operandReg m amount ty rm).value⟩
  | .strbI _ p u w rn rd imm12 => some ⟨.byte, s.xLate m rd, indexedAddress p u w rn (s.x m rn) (imm12.setWidth 32)⟩
  | .strbR _ p u w rn rd amount ty rm => some ⟨.byte, s.xLate m rd, indexedAddress p u w rn (s.x m rn) (s.operandReg m amount ty rm).value⟩
  | .strhR _ p u w rn rd rm => some ⟨.half, s.xLate m rd, indexedAddress p u w rn (s.x m rn) (s.x m rm)⟩
  | .strhI _ p u w rn rd immHi immLo => some ⟨.half, s.xLate m rd, indexedAddress p u w rn (s.x m rn) ((immHi ++ immLo).setWidth 32)⟩
  | .tStrR ro rb rd => some ⟨.word, s.x m (loReg rd), .plain (s.x m (loReg rb) + s.x m (loReg ro))⟩
  | .tStrbR ro rb rd => some ⟨.byte, s.x m (loReg rd), .plain (s.x m (loReg rb) + s.x m (loReg ro))⟩
  | .tStrhR ro rb rd => some ⟨.half, s.x m (loReg rd), .plain (s.x m (loReg rb) + s.x m (loReg ro))⟩
  | .tStrI offset5 rb rd => some ⟨.word, s.x m (loReg rd), .plain (s.x m (loReg rb) + (offset5.setWidth 32 <<< 2))⟩
  | .tStrbI offset5 rb rd => some ⟨.byte, s.x m (loReg rd), .plain (s.x m (loReg rb) + offset5.setWidth 32)⟩
  | .tStrhI offset5 rb rd => some ⟨.half, s.x m (loReg rd), .plain (s.x m (loReg rb) + (offset5.setWidth 32 <<< 1))⟩
  | .tStrSp rd word8 => some ⟨.word, s.x m (loReg rd), .plain (s.x m Reg.sp + (word8.setWidth 32 <<< 2))⟩
  | _ => none

/-- What a load of storage gives (R63, R65, R67): a word at address a holds at its byte k the byte of the aligned word that
stands (k + a) mod 4 from its start; a halfword or byte is extended. -/
def LoadOp.gives (o : LoadOp) (mem : Memory) (v : Word) : Prop :=
  let a := o.ad.address
  match o.width with
  | .word => ∀ k, k < 4 → v.extractLsb' (8 * k) 8 = mem.read ((a &&& 0xFFFFFFFC#32).toNat + (k + a.toNat) % 4)
  | .half =>
    let h : Half := mem.read (a.toNat + 1) ++ mem.read a.toNat
    v = if o.signed then h.signExtend 32 else h.setWidth 32
  | .byte => v = if o.signed then (mem.read a.toNat).signExtend 32 else (mem.read a.toNat).setWidth 32

/-- The physical registers an address writes back. -/
def Address.written (ad : Address) (m : Mode) : List PhysReg := (ad.writeBack.bind (fun w => phys m w.1)).toList

/-- The base register holds the written-back address (R190). -/
def Address.WrittenBack (ad : Address) (m : Mode) (t : State) : Prop :=
  ∀ rn v p, ad.writeBack = some (rn, v) → phys m rn = some p → t.getPhys p = v

/-! ### Block transfers (R201 to R204, R265, R266) -/

/-- A block transfer: the base register, its value, the registers, the start address, the written-back base, the mode whose
bank is transferred, and whether it is an exception return. -/
structure BlockOp where
  rn      : Reg
  base    : Word
  regs    : List Reg
  start   : Word
  wb      : Option Word
  bank    : Mode
  returns : Bool

/-- The address of the k-th transfer (R202). -/
def BlockOp.address (o : BlockOp) (k : Nat) : Word := (o.start + BitVec.ofNat 32 (4 * k)) &&& 0xFFFFFFFC#32

/-- The k-th register. -/
def BlockOp.reg (o : BlockOp) (k : Nat) : Reg := o.regs.getD k 0

/-- The registers named by an LDM or STM: the "^" form without R15 is the User bank's. -/
def armBlock (s : State) (m : Mode) (p u user returns w : Bool) (rn : Reg) (list : BitVec 16) : BlockOp :=
  let regs := (List.finRange 16).filter (fun r => list.getLsbD r.val)
  let four := BitVec.ofNat 32 (4 * regs.length)
  let base := s.x m rn
  { rn := rn, base := base, regs := regs,
    start := match p, u with
      | false, true => base
      | true, true => base + 4#32
      | false, false => base - four + 4#32
      | true, false => base - four,
    wb := if w then some (if u then base + four else base - four) else none,
    bank := if user then .usr else m,
    returns := returns }

/-- The block loads: LDM, POP, LDMIA. -/
def blockLoad? (s : State) (m : Mode) : Instr → Option BlockOp
  | .ldm _ p u hat w rn list =>
    some (armBlock s m p u (hat && !list.getLsbD 15) (hat && list.getLsbD 15) w rn list)
  | .tPop r rlist =>
    let list : BitVec 16 := BitVec.ofBool r ++ 0b0000000#7 ++ rlist
    some (armBlock s m false true false false true Reg.sp list)
  | .tLdmia rb rlist => some (armBlock s m false true false false true (loReg rb) (rlist.setWidth 16))
  | _ => none

/-- The block stores: STM, PUSH, STMIA. -/
def blockStore? (s : State) (m : Mode) : Instr → Option BlockOp
  | .stm _ p u hat w rn list => some (armBlock s m p u hat false w rn list)
  | .tPush r rlist =>
    let list : BitVec 16 := 0b0#1 ++ BitVec.ofBool r ++ 0b000000#6 ++ rlist
    some (armBlock s m true false false false true Reg.sp list)
  | .tStmia rb rlist => some (armBlock s m false true false false true (loReg rb) (rlist.setWidth 16))
  | _ => none

/-- The physical registers of a list of logical registers in a mode's bank. -/
def physList (m : Mode) (regs : List Reg) : List PhysReg := regs.filterMap (phys m)

/-- The physical register a block transfer writes back. -/
def BlockOp.wbWritten (o : BlockOp) (m : Mode) : List PhysReg := if o.wb.isSome then physList m [o.rn] else []

/-- The bytes that `n` word writes, the k-th at `address k`, take in storage. -/
def State.storedCells (s : State) (n : Nat) (address : Nat → Word) : List Nat :=
  ((List.range n).filter (fun k => !s.isDevice (address k))).flatMap (fun k => Width.word.cells (address k))

/-- The record of device writes after `n` word writes, the k-th of `value k` at `address k`. -/
def State.recordedWords (s : State) (n : Nat) (address value : Nat → Word) : List DeviceWrite :=
  s.recorded ((List.range n).map (fun k => ⟨address k, Width.word.bytesOf (value k)⟩))

/-- The bytes of the words a block store writes to storage. -/
def BlockOp.cells (o : BlockOp) (s : State) (n : Nat) : List Nat := s.storedCells n o.address

/-- The record of device writes after the first `n` writes of a block store. -/
def BlockOp.recorded (o : BlockOp) (s : State) (n : Nat) : List DeviceWrite :=
  s.recordedWords n o.address (fun k => s.xLate o.bank (o.reg k))

/-! ### Operand combinations that are violation(Unpredictable) (section U of `93_implementation_defined.md`) -/

/-- Write-back with Rn = 15 or Rn = Rd (U6). -/
def badWriteBack (p w : Bool) (rn rd : Reg) : Bool := (!p || w) && (rn == 15 || rn == rd)

/-- Rm = 15, or post-indexed with Rm = Rn (U6). -/
def badOffset (p : Bool) (rn rm : Reg) : Bool := rm == 15 || (!p && rm == rn)

/-- The halfword format with P = 0 and W = 1, or with Rd = 15 (U6). -/
def badHalf (p w : Bool) (rd : Reg) : Bool := (!p && w) || rd == 15

/-- A register of a list is below `rn`. -/
def lowerListed (list : BitVec 16) (rn : Reg) : Bool :=
  (List.finRange 16).any (fun r => decide (r < rn) && list.getLsbD r.val)

/-- The operand combinations of section U that a decoded instruction can show, in mode `m` (U4 to U8, U10, U11, U13, U14), and
Rd = 15 with a shift by register (R151, log 14).
Those that depend on a value (U7, U12, U14, U18) are stated where the value is. -/
def unpredictableOperands (m : Mode) : Instr → Bool
  -- U4, R151
  | .andS _ _ _ rd rs _ _ => rd == 15 || rs == 15
  | .eorS _ _ _ rd rs _ _ => rd == 15 || rs == 15
  | .subS _ _ _ rd rs _ _ => rd == 15 || rs == 15
  | .rsbS _ _ _ rd rs _ _ => rd == 15 || rs == 15
  | .addS _ _ _ rd rs _ _ => rd == 15 || rs == 15
  | .adcS _ _ _ rd rs _ _ => rd == 15 || rs == 15
  | .sbcS _ _ _ rd rs _ _ => rd == 15 || rs == 15
  | .rscS _ _ _ rd rs _ _ => rd == 15 || rs == 15
  | .tstS _ _ rs _ _ => rs == 15
  | .teqS _ _ rs _ _ => rs == 15
  | .cmpS _ _ rs _ _ => rs == 15
  | .cmnS _ _ rs _ _ => rs == 15
  | .orrS _ _ _ rd rs _ _ => rd == 15 || rs == 15
  | .movS _ _ rd rs _ _ => rd == 15 || rs == 15
  | .bicS _ _ _ rd rs _ _ => rd == 15 || rs == 15
  | .mvnS _ _ rd rs _ _ => rd == 15 || rs == 15
  -- U5
  | .mul _ _ rd rs rm => rd == 15 || rs == 15 || rm == 15 || rd == rm
  | .mla _ _ rd rn rs rm => rd == 15 || rn == 15 || rs == 15 || rm == 15 || rd == rm
  | .umull _ _ hi lo rs rm | .umlal _ _ hi lo rs rm | .smull _ _ hi lo rs rm | .smlal _ _ hi lo rs rm =>
    hi == 15 || lo == 15 || rs == 15 || rm == 15 || hi == lo || hi == rm || lo == rm
  | .tMul rs rd => rs == rd
  -- U6
  | .ldrI _ p _ w rn rd _ | .strI _ p _ w rn rd _ => badWriteBack p w rn rd
  | .ldrR _ p _ w rn rd _ _ rm | .strR _ p _ w rn rd _ _ rm => badWriteBack p w rn rd || badOffset p rn rm
  | .ldrbI _ p _ w rn rd _ | .strbI _ p _ w rn rd _ => badWriteBack p w rn rd || rd == 15
  | .ldrbR _ p _ w rn rd _ _ rm | .strbR _ p _ w rn rd _ _ rm =>
    badWriteBack p w rn rd || badOffset p rn rm || rd == 15
  | .ldrhI _ p _ w rn rd _ _ | .ldrsbI _ p _ w rn rd _ _ | .ldrshI _ p _ w rn rd _ _ | .strhI _ p _ w rn rd _ _ =>
    badWriteBack p w rn rd || badHalf p w rd
  | .ldrhR _ p _ w rn rd rm | .ldrsbR _ p _ w rn rd rm | .ldrshR _ p _ w rn rd rm | .strhR _ p _ w rn rd rm =>
    badWriteBack p w rn rd || badOffset p rn rm || badHalf p w rd
  -- U7
  | .bx _ rm => rm == 15
  -- U8
  | .ldc _ p _ _ w rn _ _ _ | .stc _ p _ _ w rn _ _ _ => (!p && !w) || (w && rn == 15)
  -- U10
  | .tAddHi rs rd | .tMovHi rs rd => rs < 8 && rd < 8
  | .tCmpHi rs rd => (rs < 8 && rd < 8) || rd == 15
  -- U11
  | .ldm _ _ _ hat w rn list =>
    list == 0x0000#16 || rn == 15 ||
      (if hat && !list.getLsbD 15 then w || m == .usr || m == .sys else w && list.getLsbD rn.val)
  | .stm _ _ _ hat w rn list =>
    list == 0x0000#16 || rn == 15 ||
      (if hat then w || m == .usr || m == .sys else w && list.getLsbD rn.val && lowerListed list rn)
  | .tPush r rlist | .tPop r rlist => !r && rlist == 0x00#8
  | .tLdmia _ rlist => rlist == 0x00#8
  | .tStmia rb rlist =>
    rlist == 0x00#8 || (rlist.getLsbD rb.val && lowerListed (rlist.setWidth 16) (loReg rb))
  -- U13
  | .swp _ rn rd rm | .swpb _ rn rd rm => rn == 15 || rd == 15 || rm == 15 || rn == rm || rn == rd
  -- U14
  | .mrs _ _ rd => rd == 15
  | .msrR _ _ _ rm => rm == 15
  | _ => false

/-! ### Coprocessor requests (R240) -/

/-- The first request of a coprocessor instruction. -/
def copRequest? (s : State) (m : Mode) : Instr → Option CopRequest
  | .cdp _ opc1 crn crd cp opc2 crm => some (.execute cp opc1 crn crd crm opc2)
  | .mcr _ opc1 crn rd cp opc2 crm => some (.moveTo cp opc1 crn crm opc2 (s.xLate m rd))
  | .mrc _ opc1 crn _ cp opc2 crm => some (.moveFrom cp opc1 crn crm opc2)
  | .ldc _ _ _ n _ _ crd cp _ => some (.load cp crd n)
  | .stc _ _ _ n _ _ crd cp _ => some (.store cp crd n)
  | _ => none

/-- The k-th word address of LDC and STC (R245). -/
def copWordAddress (ad : Address) (k : Nat) : Word := (ad.address + BitVec.ofNat 32 (4 * k)) &&& 0xFFFFFFFC#32

/-! ### Branches of format 16 (R267) -/

/-- The condition and offset of a THUMB conditional branch. -/
def thumbBranch? : Instr → Option (Cond × BitVec 8)
  | .tBeq o => some (.eq, o) | .tBne o => some (.ne, o) | .tBcs o => some (.cs, o) | .tBcc o => some (.cc, o)
  | .tBmi o => some (.mi, o) | .tBpl o => some (.pl, o) | .tBvs o => some (.vs, o) | .tBvc o => some (.vc, o)
  | .tBhi o => some (.hi, o) | .tBls o => some (.ls, o) | .tBge o => some (.ge, o) | .tBlt o => some (.lt, o)
  | .tBgt o => some (.gt, o) | .tBle o => some (.le, o)
  | _ => none

end Machine
end Sys2Proof
end

