-- ==== Sys2Proof/Certificates/Slice0/Obligations.lean ====
section
/-! DEFINITION. The statements for the provers. A statement that the log marks as the model's choice says so. -/
open Sys2Proof Sys2Proof.Machine

/-! ### Encoding -/

/-- R94 to R109, R250: words written out bit by bit from the spec's encodings decode to the instructions they stand for. -/
def Obligations.SampleWords : Prop :=
  decode true (.arm 0xE0910002#32) = .ok (.addR .al true 1 0 0b00000#5 .lsl 2) ∧
  decode true (.arm 0xE3B00102#32) = .ok (.movI .al true 0 0b0001#4 0x02#8) ∧
  decode true (.arm 0xE1A00211#32) = .ok (.movS .al false 0 2 .lsl 1) ∧
  decode true (.arm 0xE5210004#32) = .ok (.strI .al true false true 1 0 0x004#12) ∧
  decode true (.arm 0xE1D100B2#32) = .ok (.ldrhI .al true true false 1 0 0x0#4 0x2#4) ∧
  decode true (.arm 0xE8BD800F#32) = .ok (.ldm .al false true false true 13 0x800F#16) ∧
  decode true (.arm 0xE0203291#32) = .ok (.mla .al false 0 3 2 1) ∧
  decode true (.arm 0xE169F000#32) = .ok (.msrR .al .spsr 0b1001#4 0) ∧
  decode true (.arm 0x1BFFFFFC#32) = .ok (.bl .ne 0xFFFFFC#24) ∧
  decode true (.arm 0xEE2431C5#32) = .ok (.cdp .al 0x2#4 0x4#4 0x3#4 0x1#4 0b110#3 0x5#4) ∧
  decode true (.thumb 0x1E40#16) = .ok (.tSubI3 0b001#3 0 0) ∧
  decode true (.thumb 0x4580#16) = .ok (.tCmpHi 0 8) ∧
  decode true (.thumb 0xBD0F#16) = .ok (.tPop true 0x0F#8) ∧
  decode true (.thumb 0xD1FB#16) = .ok (.tBne 0xFB#8)

/-- R110, R250: the rows of the table are pairwise disjoint, so a word has at most one meaning. -/
def Obligations.RowsDisjoint : Prop :=
  armRows.Pairwise (fun a b => ∀ w, ¬ (w &&& a.mask = a.bits ∧ w &&& b.mask = b.bits)) ∧
  thumbRows.Pairwise (fun a b => ∀ h, ¬ (h &&& a.mask = a.bits ∧ h &&& b.mask = b.bits))

/-- Every well-formed instruction, with every operand at every value its encoding admits, is what its own bits decode to. -/
def Obligations.DecodeOfEncode : Prop :=
  ∀ (extras : Bool) (i : Instr), i.wellFormed extras = true → decode extras (encode i) = .ok i

/-- Bits that decode are the bits of exactly the instruction they decode to: no bit is dropped. -/
def Obligations.EncodeOfDecode : Prop :=
  ∀ (extras : Bool) (code : Code) (i : Instr), decode extras code = .ok i → encode i = code ∧ i.wellFormed extras = true

/-- R4, R110: without V4T_EXTRAS the instructions outside the tag list do not decode. -/
def Obligations.ExtrasGate : Prop :=
  ∀ i : Instr, i.needsExtras = true → decode false (encode i) = .error .needsExtras

/-! ### Registers, conditions, operands -/

/-- R23: the physical register each logical register denotes in each mode. -/
def Obligations.BankResolution : Prop :=
  (∀ (m : Mode) (i : Fin 8), phys m ⟨i.val, by omega⟩ = some (.low i)) ∧
  (∀ (m : Mode) (i : Fin 5), phys m ⟨8 + i.val, by omega⟩ = some (if m = .fiq then .midFiq i else .mid i)) ∧
  phys .usr 13 = some (.sp .usr) ∧ phys .usr 14 = some (.lr .usr) ∧
  phys .sys 13 = some (.sp .usr) ∧ phys .sys 14 = some (.lr .usr) ∧
  phys .fiq 13 = some (.sp .fiq) ∧ phys .fiq 14 = some (.lr .fiq) ∧
  phys .svc 13 = some (.sp .svc) ∧ phys .svc 14 = some (.lr .svc) ∧
  phys .abt 13 = some (.sp .abt) ∧ phys .abt 14 = some (.lr .abt) ∧
  phys .irq 13 = some (.sp .irq) ∧ phys .irq 14 = some (.lr .irq) ∧
  phys .und 13 = some (.sp .und) ∧ phys .und 14 = some (.lr .und) ∧
  ∀ m : Mode, phys m 15 = none

/-- R24: a register reads as last written, and a write leaves every other physical register, of whatever bank, alone. -/
def Obligations.RegisterRetention : Prop :=
  ∀ (s : State) (p q : PhysReg) (v : Word),
    (s.setPhys p v).getPhys q = if q = p then v else s.getPhys q

/-- R134: what an instruction reads from R15, and R23 for every other register. -/
def Obligations.PcOperand : Prop :=
  ∀ (s : State) (m : Mode),
    (psrT s.cpsr = false → s.x m 15 = s.pc + 8#32 ∧ s.xLate m 15 = s.pc + 12#32) ∧
    (psrT s.cpsr = true → s.x m 15 = s.pc + 4#32 ∧ s.pcBase = (s.pc + 4#32) &&& 0xFFFFFFFD#32) ∧
    (∀ r p, phys m r = some p → s.x m r = s.getPhys p ∧ s.xLate m r = s.getPhys p)

/-- R92: which flags each condition passes under. -/
def Obligations.ConditionTable : Prop :=
  ∀ p : Word,
    (condPassed .eq p = true ↔ psrZ p = true) ∧ (condPassed .ne p = true ↔ psrZ p = false) ∧
    (condPassed .cs p = true ↔ psrC p = true) ∧ (condPassed .cc p = true ↔ psrC p = false) ∧
    (condPassed .mi p = true ↔ psrN p = true) ∧ (condPassed .pl p = true ↔ psrN p = false) ∧
    (condPassed .vs p = true ↔ psrV p = true) ∧ (condPassed .vc p = true ↔ psrV p = false) ∧
    (condPassed .hi p = true ↔ psrC p = true ∧ psrZ p = false) ∧
    (condPassed .ls p = true ↔ psrC p = false ∨ psrZ p = true) ∧
    (condPassed .ge p = true ↔ psrN p = psrV p) ∧ (condPassed .lt p = true ↔ psrN p ≠ psrV p) ∧
    (condPassed .gt p = true ↔ psrZ p = false ∧ psrN p = psrV p) ∧
    (condPassed .le p = true ↔ psrZ p = true ∨ psrN p ≠ psrV p) ∧
    condPassed .al p = true ∧ condPassed .nv p = false

/-- R133: an ARM instruction whose condition fails changes nothing but pc, whatever the instruction. -/
def Obligations.ConditionFails : Prop :=
  ∀ (i : Instr) (s : State) (m : Mode), s.mode? = some m → psrT s.cpsr = false → i.isThumb = false →
    condPassed i.condition s.cpsr = false →
    exec i s = .next { s with pc := s.pc + 4#32 }

/-- R95, R151: the immediate operand is the 8-bit immediate rotated right by twice the rotate field. -/
def Obligations.RotatedImmediate : Prop :=
  ∀ (rot : BitVec 4) (imm8 : BitVec 8) (c : Bool),
    (∀ k, k < 32 → (shifterImm rot imm8 c).value.getLsbD k =
      (decide ((k + 2 * rot.toNat) % 32 < 8) && imm8.getLsbD ((k + 2 * rot.toNat) % 32))) ∧
    (rot = 0b0000#4 → (shifterImm rot imm8 c).carry = c) ∧
    (rot ≠ 0b0000#4 → (shifterImm rot imm8 c).carry = (shifterImm rot imm8 c).value.getLsbD 31)

/-- R151, the table of the shift by an immediate, in numbers: `n` is the shift field. -/
def Obligations.ShiftByImmediate : Prop :=
  ∀ (n : Nat) (m : Word) (c : Bool), n < 32 →
    (n = 0 → shiftByImm .lsl n m c = ⟨m, c⟩ ∧
      shiftByImm .lsr n m c = ⟨0#32, m.getLsbD 31⟩ ∧
      shiftByImm .asr n m c = ⟨BitVec.ofInt 32 (m.toInt / 2 ^ 32), m.getLsbD 31⟩ ∧
      shiftByImm .ror n m c = ⟨BitVec.ofNat 32 (m.toNat / 2 + if c then 2 ^ 31 else 0), m.getLsbD 0⟩) ∧
    (0 < n → shiftByImm .lsl n m c = ⟨BitVec.ofNat 32 (m.toNat * 2 ^ n), m.getLsbD (32 - n)⟩ ∧
      shiftByImm .lsr n m c = ⟨BitVec.ofNat 32 (m.toNat / 2 ^ n), m.getLsbD (n - 1)⟩ ∧
      shiftByImm .asr n m c = ⟨BitVec.ofInt 32 (m.toInt / 2 ^ n), m.getLsbD (n - 1)⟩ ∧
      shiftByImm .ror n m c = ⟨BitVec.ofNat 32 (m.toNat / 2 ^ n + m.toNat * 2 ^ (32 - n)), m.getLsbD (n - 1)⟩)

/-- R151, the table of the shift by a register, in numbers: `n` is the low byte of Rs. -/
def Obligations.ShiftByRegister : Prop :=
  ∀ (n : Nat) (m : Word) (c : Bool), n < 256 →
    (n = 0 → ∀ ty, shiftByReg ty n m c = ⟨m, c⟩) ∧
    (0 < n → n < 32 → ∀ ty, shiftByReg ty n m c = shiftByImm ty n m c) ∧
    (n = 32 → shiftByReg .lsl n m c = ⟨0#32, m.getLsbD 0⟩ ∧ shiftByReg .lsr n m c = ⟨0#32, m.getLsbD 31⟩) ∧
    (32 < n → shiftByReg .lsl n m c = ⟨0#32, false⟩ ∧ shiftByReg .lsr n m c = ⟨0#32, false⟩) ∧
    (32 ≤ n → shiftByReg .asr n m c = ⟨if m.toInt < 0 then 0xFFFFFFFF#32 else 0#32, decide (m.toInt < 0)⟩) ∧
    (32 ≤ n → n % 32 = 0 → shiftByReg .ror n m c = ⟨m, m.getLsbD 31⟩) ∧
    (32 ≤ n → n % 32 ≠ 0 → shiftByReg .ror n m c = shiftByImm .ror (n % 32) m c)

/-! ### Data processing and multiplication -/

/-- R150, R152, R154 to R169: every data-processing instruction of ARM state, in its three operand forms, with a destination
other than R15, completes with the exact result narrowed, the flags of its class, and its frame. -/
def Obligations.DataProcessingArm : Prop :=
  ∀ (i : Instr) (s : State) (m : Mode) (d : DataOp), Runs i s m → i.isThumb = false → dataOp? s m i = some d →
    unpredictableOperands m i = false → d.dest ≠ some 15 →
    ∃ t, exec i s = .next t ∧ DataDone d 4#32 m s t

/-- R252 to R256, R263, R264: the shifts, the arithmetic, the logic and the address generation of THUMB state, likewise. -/
def Obligations.DataProcessingThumb : Prop :=
  ∀ (i : Instr) (s : State) (m : Mode) (d : DataOp), Runs i s m → i.isThumb = true → dataOp? s m i = some d →
    unpredictableOperands m i = false → d.dest ≠ some 15 →
    ∃ t, exec i s = .next t ∧ DataDone d 2#32 m s t

/-- R38, R135, R153, R256: R15 as destination. Without flags it is a branch that keeps the state and changes nothing but pc.
With S it is the exception return: CPSR from the SPSR of the current mode, pc aligned by the restored T, nothing else; NoSPSR,
UndefinedSPSR and IllegalMode where the SPSR cannot be restored. The shift by register with Rd = 15 is none of these forms:
it stops (`UnpredictableOperands`, log 14). -/
def Obligations.DestinationPc : Prop :=
  ∀ (i : Instr) (s : State) (m : Mode) (d : DataOp), Runs i s m → dataOp? s m i = some d →
    unpredictableOperands m i = false → d.dest = some 15 →
    (d.setFlags = false →
      exec i s = .next { s with pc := if i.isThumb then (d.expected s.cpsr).value &&& 0xFFFFFFFE#32
                                      else (d.expected s.cpsr).value &&& 0xFFFFFFFC#32 }) ∧
    (d.setFlags = true → (m = .usr ∨ m = .sys) → exec i s = .fault (.violation .noSPSR)) ∧
    (∀ e, d.setFlags = true → m = e.mode → s.spsrDef.get e = false →
      exec i s = .fault (.violation .undefinedSPSR)) ∧
    (∀ e, d.setFlags = true → m = e.mode → s.spsrDef.get e = true →
      (∀ m', (s.spsr.get e).extractLsb' 0 5 ≠ Mode.bits m') → exec i s = .fault (.violation .illegalMode)) ∧
    (∀ e m', d.setFlags = true → m = e.mode → s.spsrDef.get e = true →
      (s.spsr.get e).extractLsb' 0 5 = Mode.bits m' →
      exec i s = .next { s with
        cpsr := s.spsr.get e,
        pc := if (s.spsr.get e).getLsbD 5 then (d.expected s.cpsr).value &&& 0xFFFFFFFE#32
              else (d.expected s.cpsr).value &&& 0xFFFFFFFC#32 })

/-- R180 to R182, R255: MUL, MLA and THUMB MUL complete with the low 32 bits; with S they set N and Z, keep V and every bit
below, and leave C free. -/
def Obligations.Multiply : Prop :=
  ∀ (i : Instr) (s : State) (m : Mode) (o : MulOp), Runs i s m → mulOp? s m i = some o →
    unpredictableOperands m i = false →
    ∃ t p r, exec i s = .next t ∧ phys m o.rd = some p ∧ t.getPhys p = r ∧ r.toNat = o.product % 2 ^ 32 ∧
      (o.setFlags = true → FlagsBecome s.cpsr t.cpsr (decide (2 ^ 31 ≤ r.toNat)) (decide (r.toNat = 0))
        (psrC t.cpsr) (psrV s.cpsr)) ∧
      (o.setFlags = false → t.cpsr = s.cpsr) ∧
      t.pc = s.pc + i.size ∧ Keeps [p] [] s t

/-- R180, R183 to R186: the long multiplies complete with the exact product, modulo 2^64; with S they set N and Z of the
64-bit result, leave C and V free, and keep every bit below. -/
def Obligations.LongMultiply : Prop :=
  ∀ (i : Instr) (s : State) (m : Mode) (o : LongMulOp), Runs i s m → longMulOp? s m i = some o →
    unpredictableOperands m i = false →
    ∃ t pHi pLo, exec i s = .next t ∧ phys m o.rdHi = some pHi ∧ phys m o.rdLo = some pLo ∧
      t.getPhys pHi ++ t.getPhys pLo = BitVec.ofInt 64 o.product ∧
      (o.setFlags = true → FlagsBecome s.cpsr t.cpsr (BitVec.ofInt 64 o.product).msb
        (decide (o.product % 2 ^ 64 = 0)) (psrC t.cpsr) (psrV t.cpsr)) ∧
      (o.setFlags = false → t.cpsr = s.cpsr) ∧
      t.pc = s.pc + i.size ∧ Keeps [pHi, pLo] [] s t

/-! ### Operand combinations that stop -/

/-- R112, R151 and section U: every operand combination called UNPREDICTABLE is violation(Unpredictable). That Rd = 15 with a
shift by register is one is read from R151, R10 and D31 (log 14). -/
def Obligations.UnpredictableOperands : Prop :=
  ∀ (i : Instr) (s : State) (m : Mode), Runs i s m → unpredictableOperands m i = true →
    exec i s = .fault (.violation .unpredictable)

/-- R65: a halfword access at an odd address, and a word access that MISALIGN = refuse forbids, is violation(Unpredictable),
for the single loads and stores and SWP. -/
def Obligations.MisalignedAccess : Prop :=
  (∀ (i : Instr) (s : State) (m : Mode) (o : LoadOp), Runs i s m → loadOp? s m i = some o →
    unpredictableOperands m i = false → ¬ o.width.defined s o.ad.address →
    exec i s = .fault (.violation .unpredictable)) ∧
  (∀ (i : Instr) (s : State) (m : Mode) (o : StoreOp), Runs i s m → storeOp? s m i = some o →
    unpredictableOperands m i = false → ¬ o.width.defined s o.ad.address →
    exec i s = .fault (.violation .unpredictable)) ∧
  (∀ (c : Cond) (rn rd rm : Reg) (s : State) (m : Mode), Runs (.swp c rn rd rm) s m →
    ¬ Width.defined .word s (s.x m rn) → exec (.swp c rn rd rm) s = .fault (.violation .unpredictable))

/-! ### Loads and stores -/

/-- R190, R199: pre- and post-indexed addressing and write-back. -/
def Obligations.Addressing : Prop :=
  ∀ (u w : Bool) (rn : Reg) (base off : Word),
    indexedAddress true u w rn base off =
      ⟨if u then base + off else base - off, if w then some (rn, if u then base + off else base - off) else none⟩ ∧
    indexedAddress false u w rn base off = ⟨base, some (rn, if u then base + off else base - off)⟩

/-- R190, R191, R193, R195, R197, R198, R257 to R262: every single load completes where the interface answers: it writes the
loaded value (R15: a branch), the written-back base, pc, and nothing else. A device answers a free value (log 5). -/
def Obligations.LoadCompletes : Prop :=
  ∀ (i : Instr) (s : State) (m : Mode) (o : LoadOp), Runs i s m → loadOp? s m i = some o →
    unpredictableOperands m i = false → o.width.defined s o.ad.address →
    s.answers false (o.width.request o.ad.address) = true →
    ∃ t v, exec i s = .next t ∧
      (s.isDevice (o.width.request o.ad.address) = false → o.gives s.mem v) ∧
      (∀ p, phys m o.rd = some p → t.getPhys p = v) ∧
      t.pc = (if o.rd = 15 then v &&& 0xFFFFFFFC#32 else s.pc + i.size) ∧
      o.ad.WrittenBack m t ∧ t.cpsr = s.cpsr ∧
      Keeps ((phys m o.rd).toList ++ o.ad.written m) [] s t

/-- R190, R192, R194, R196, R258 to R262: every single store completes where the interface answers Ok: the bytes of the
value, least significant first, at the request's address, the written-back base, pc, and nothing else. A device records the
request, and storage stays (log 5). -/
def Obligations.StoreCompletes : Prop :=
  ∀ (i : Instr) (s : State) (m : Mode) (o : StoreOp), Runs i s m → storeOp? s m i = some o →
    unpredictableOperands m i = false → o.width.defined s o.ad.address →
    s.accepts (o.width.request o.ad.address) = true →
    ∃ t, exec i s = .next t ∧
      (s.isDevice (o.width.request o.ad.address) = false → ∀ k, k < o.width.bytes →
        t.mem.read ((o.width.request o.ad.address).toNat + k) = o.value.extractLsb' (8 * k) 8) ∧
      o.ad.WrittenBack m t ∧ t.cpsr = s.cpsr ∧ t.pc = s.pc + i.size ∧
      Keeps (o.ad.written m)
        (if s.isDevice (o.width.request o.ad.address) then [] else o.width.cells o.ad.address)
        { s with deviceWrites := s.recorded [⟨o.width.request o.ad.address, o.width.bytesOf o.value⟩] } t

/-- R75, R210, R314: a single load or store whose request answers Fault performs its write-back and nothing else, and takes
DataAbort. -/
def Obligations.SingleTransferAborts : Prop :=
  (∀ (i : Instr) (s : State) (m : Mode) (o : LoadOp), Runs i s m → loadOp? s m i = some o →
    unpredictableOperands m i = false → o.width.defined s o.ad.address →
    s.answers false (o.width.request o.ad.address) = false →
    ∃ u t, exec i s = .next t ∧ o.ad.WrittenBack m u ∧ u.pc = s.pc ∧ u.cpsr = s.cpsr ∧
      Keeps (o.ad.written m) [] s u ∧ Entered .dataAbort (s.pc + 8#32) u t) ∧
  (∀ (i : Instr) (s : State) (m : Mode) (o : StoreOp), Runs i s m → storeOp? s m i = some o →
    unpredictableOperands m i = false → o.width.defined s o.ad.address →
    s.accepts (o.width.request o.ad.address) = false →
    ∃ u t, exec i s = .next t ∧ o.ad.WrittenBack m u ∧ u.pc = s.pc ∧ u.cpsr = s.cpsr ∧
      Keeps (o.ad.written m) [] s u ∧ Entered .dataAbort (s.pc + 8#32) u t)

/-- R201 to R203, R265, R266: a block load whose requests all answer: ascending registers from ascending word addresses,
write-back (a loaded base wins), R15 a branch, CPSR only in the exception return, and nothing else. A device: log 5. That
MISALIGN = refuse stops no transfer with an unaligned base is the model's reading (log 15). -/
def Obligations.BlockLoadCompletes : Prop :=
  ∀ (i : Instr) (s : State) (m : Mode) (o : BlockOp), Runs i s m → blockLoad? s m i = some o →
    unpredictableOperands m i = false →
    (∀ k, k < o.regs.length → s.answers false (o.address k) = true) →
    (o.returns = true → ∃ e m', m = e.mode ∧ s.spsrDef.get e = true ∧ (s.spsr.get e).extractLsb' 0 5 = Mode.bits m') →
    ∃ (t : State) (v : Nat → Word), exec i s = .next t ∧
      (∀ k, k < o.regs.length → s.isDevice (o.address k) = false →
        ∀ j, j < 4 → (v k).extractLsb' (8 * j) 8 = s.mem.read ((o.address k).toNat + j)) ∧
      (∀ k p, k < o.regs.length → phys o.bank (o.reg k) = some p → t.getPhys p = v k) ∧
      (∀ w p, o.wb = some w → o.rn ∉ o.regs → phys m o.rn = some p → t.getPhys p = w) ∧
      (o.returns = false → t.cpsr = s.cpsr) ∧
      (∀ e, o.returns = true → m = e.mode → t.cpsr = s.spsr.get e) ∧
      ((15 : Reg) ∉ o.regs → t.pc = s.pc + i.size) ∧
      (∀ k, k < o.regs.length → o.reg k = 15 →
        t.pc = if psrT t.cpsr then v k &&& 0xFFFFFFFE#32 else v k &&& 0xFFFFFFFC#32) ∧
      Keeps (physList o.bank o.regs ++ o.wbWritten m) [] s t

/-- R38, R203: the exception return form of LDM stops before any access where the SPSR cannot be restored. That this
precedes the accesses: log 16. -/
def Obligations.BlockReturnStops : Prop :=
  ∀ (i : Instr) (s : State) (m : Mode) (o : BlockOp), Runs i s m → blockLoad? s m i = some o →
    unpredictableOperands m i = false → o.returns = true →
    ((m = .usr ∨ m = .sys) → exec i s = .fault (.violation .noSPSR)) ∧
    (∀ e, m = e.mode → s.spsrDef.get e = false → exec i s = .fault (.violation .undefinedSPSR)) ∧
    (∀ e, m = e.mode → s.spsrDef.get e = true → (∀ m', (s.spsr.get e).extractLsb' 0 5 ≠ Mode.bits m') →
      exec i s = .fault (.violation .illegalMode))

/-- R201, R202, R204, R265, R266: a block store whose requests all answer Ok: ascending registers to ascending word
addresses (R15 as CUR + 12, a listed base as its original value), write-back, and nothing else. A device records its writes
(log 5). That MISALIGN = refuse stops no transfer with an unaligned base is the model's reading (log 15). -/
def Obligations.BlockStoreCompletes : Prop :=
  ∀ (i : Instr) (s : State) (m : Mode) (o : BlockOp), Runs i s m → blockStore? s m i = some o →
    unpredictableOperands m i = false →
    (∀ k, k < o.regs.length → s.accepts (o.address k) = true) →
    ∃ t, exec i s = .next t ∧
      (∀ k, k < o.regs.length → s.isDevice (o.address k) = false →
        ∀ j, j < 4 → t.mem.read ((o.address k).toNat + j) = (s.xLate o.bank (o.reg k)).extractLsb' (8 * j) 8) ∧
      (∀ w p, o.wb = some w → phys m o.rn = some p → t.getPhys p = w) ∧
      t.cpsr = s.cpsr ∧ t.pc = s.pc + i.size ∧
      Keeps (o.wbWritten m) (o.cells s o.regs.length) { s with deviceWrites := o.recorded s o.regs.length } t

/-- R210: a block load whose n-th request is the first to answer Fault: the registers before it are loaded, R15 and CPSR are
not, the base is the written-back or the original value, and DataAbort is taken. The base is that of the current mode (log
17). A device: log 5. That MISALIGN = refuse stops no transfer with an unaligned base is the model's reading (log 15). -/
def Obligations.BlockLoadAborts : Prop :=
  ∀ (i : Instr) (s : State) (m : Mode) (o : BlockOp) (n : Nat), Runs i s m → blockLoad? s m i = some o →
    unpredictableOperands m i = false → n < o.regs.length →
    (∀ k, k < n → s.answers false (o.address k) = true) → s.answers false (o.address n) = false →
    (o.returns = true → ∃ e m', m = e.mode ∧ s.spsrDef.get e = true ∧ (s.spsr.get e).extractLsb' 0 5 = Mode.bits m') →
    ∃ u t, exec i s = .next t ∧
      (∀ k p, k < n → s.isDevice (o.address k) = false → phys o.bank (o.reg k) = some p →
        phys m o.rn ≠ some p →
        ∀ j, j < 4 → (u.getPhys p).extractLsb' (8 * j) 8 = s.mem.read ((o.address k).toNat + j)) ∧
      (∀ p, phys m o.rn = some p → u.getPhys p = o.wb.getD o.base) ∧
      u.pc = s.pc ∧ u.cpsr = s.cpsr ∧
      Keeps (physList o.bank (o.regs.take n) ++ o.wbWritten m) [] s u ∧
      Entered .dataAbort (s.pc + 8#32) u t

/-- R210: a block store whose n-th request is the first to answer Fault: the words before it are stored, the base is written
back, and DataAbort is taken. A device records its writes (log 5). That MISALIGN = refuse stops no transfer with an unaligned
base is the model's reading (log 15). -/
def Obligations.BlockStoreAborts : Prop :=
  ∀ (i : Instr) (s : State) (m : Mode) (o : BlockOp) (n : Nat), Runs i s m → blockStore? s m i = some o →
    unpredictableOperands m i = false → n < o.regs.length →
    (∀ k, k < n → s.accepts (o.address k) = true) → s.accepts (o.address n) = false →
    ∃ u t, exec i s = .next t ∧
      (∀ k, k < n → s.isDevice (o.address k) = false →
        ∀ j, j < 4 → u.mem.read ((o.address k).toNat + j) = (s.xLate o.bank (o.reg k)).extractLsb' (8 * j) 8) ∧
      (∀ w p, o.wb = some w → phys m o.rn = some p → u.getPhys p = w) ∧
      u.pc = s.pc ∧ u.cpsr = s.cpsr ∧
      Keeps (o.wbWritten m) (o.cells s n) { s with deviceWrites := o.recorded s n } u ∧
      Entered .dataAbort (s.pc + 8#32) u t

/-- R206, R207: SWP and SWPB exchange a register and storage: Rd takes what the address held (a word rotated as LDR rotates
it), the address takes Rm; with a Fault on either access DataAbort is taken and nothing else happens. A device answers a free
value and records the write (log 5). -/
def Obligations.Swap : Prop :=
  ∀ (byte : Bool) (c : Cond) (rn rd rm : Reg) (s : State) (m : Mode),
    let i : Instr := if byte then .swpb c rn rd rm else .swp c rn rd rm
    let w : Width := if byte then .byte else .word
    let a := s.x m rn
    Runs i s m → unpredictableOperands m i = false → w.defined s a →
    (s.answers false (w.request a) = true → s.accepts (w.request a) = true → s.isDevice (w.request a) = false →
      ∃ t v, exec i s = .next t ∧ LoadOp.gives ⟨w, false, rd, .plain a⟩ s.mem v ∧
        (∀ p, phys m rd = some p → t.getPhys p = v) ∧
        (∀ k, k < w.bytes → t.mem.read ((w.request a).toNat + k) = (s.x m rm).extractLsb' (8 * k) 8) ∧
        t.cpsr = s.cpsr ∧ t.pc = s.pc + 4#32 ∧
        Keeps (phys m rd).toList (w.cells a) s t) ∧
    (s.answers false (w.request a) = true → s.accepts (w.request a) = true → s.isDevice (w.request a) = true →
      ∃ t, exec i s = .next t ∧ t.cpsr = s.cpsr ∧ t.pc = s.pc + 4#32 ∧
        Keeps (phys m rd).toList [] { s with deviceWrites := s.recorded [⟨w.request a, w.bytesOf (s.x m rm)⟩] } t) ∧
    ((s.answers false (w.request a) = false ∨ s.accepts (w.request a) = false) →
      ∃ t, exec i s = .next t ∧ Entered .dataAbort (s.pc + 8#32) s t)

/-! ### Branches -/

/-- R220, R221: B goes to CUR + 8 plus four times its signed offset; BL also writes CUR + 4 to R14 of the current mode. When
the condition fails both only advance pc. -/
def Obligations.Branch : Prop :=
  ∀ (c : Cond) (offset24 : BitVec 24) (s : State) (m : Mode),
    (s.mode? = some m → psrT s.cpsr = false → condPassed c s.cpsr = false →
      exec (.b c offset24) s = .next { s with pc := s.pc + 4#32 } ∧
      exec (.bl c offset24) s = .next { s with pc := s.pc + 4#32 }) ∧
    (Runs (.b c offset24) s m → exec (.b c offset24) s =
      .next { s with pc := BitVec.ofInt 32 (s.pc.toNat + 8 + 4 * offset24.toInt) }) ∧
    (Runs (.bl c offset24) s m → ∃ t p, exec (.bl c offset24) s = .next t ∧ phys m 14 = some p ∧
      t.getPhys p = s.pc + 4#32 ∧ t.pc = BitVec.ofInt 32 (s.pc.toNat + 8 + 4 * offset24.toInt) ∧
      t.cpsr = s.cpsr ∧ Keeps [p] [] s t)

/-- R222, R256: BX in both states: bit 0 of the target selects the state, the other bits are the address, and no other bit of
CPSR changes; Rm = 15 in ARM state, and an ARM target with bit 1 set, is violation(Unpredictable). -/
def Obligations.BranchExchange : Prop :=
  ∀ (i : Instr) (r : Reg) (s : State) (m : Mode), ((∃ c, i = .bx c r) ∨ i = .tBx r) → Runs i s m →
    (i.isThumb = false → r = 15 → exec i s = .fault (.violation .unpredictable)) ∧
    ((i.isThumb = true ∨ r ≠ 15) → (s.x m r).toNat % 2 = 1 → ∃ t, exec i s = .next t ∧ t.pc.toNat = (s.x m r).toNat - 1 ∧
      psrT t.cpsr = true ∧ (∀ k, k ≠ 5 → t.cpsr.getLsbD k = s.cpsr.getLsbD k) ∧ Keeps [] [] s t) ∧
    ((i.isThumb = true ∨ r ≠ 15) → (s.x m r).toNat % 4 = 0 → ∃ t, exec i s = .next t ∧ t.pc = s.x m r ∧
      psrT t.cpsr = false ∧ (∀ k, k ≠ 5 → t.cpsr.getLsbD k = s.cpsr.getLsbD k) ∧ Keeps [] [] s t) ∧
    ((s.x m r).toNat % 4 = 2 → exec i s = .fault (.violation .unpredictable))

/-- R267, R269: the THUMB branches: CUR + 4 plus twice the signed offset when the condition passes, else CUR + 2. -/
def Obligations.ThumbBranch : Prop :=
  (∀ (i : Instr) (c : Cond) (soffset8 : BitVec 8) (s : State) (m : Mode), Runs i s m →
    thumbBranch? i = some (c, soffset8) →
    exec i s = .next { s with pc := if condPassed c s.cpsr then BitVec.ofInt 32 (s.pc.toNat + 4 + 2 * soffset8.toInt)
                                    else s.pc + 2#32 }) ∧
  (∀ (offset11 : BitVec 11) (s : State) (m : Mode), Runs (.tB offset11) s m →
    exec (.tB offset11) s = .next { s with pc := BitVec.ofInt 32 (s.pc.toNat + 4 + 2 * offset11.toInt) })

/-- R270: the two halves of the THUMB BL, each complete by itself. -/
def Obligations.ThumbLongBranch : Prop :=
  ∀ (offset11 : BitVec 11) (s : State) (m : Mode) (p : PhysReg), phys m 14 = some p →
    (Runs (.tBlFirst offset11) s m → ∃ t, exec (.tBlFirst offset11) s = .next t ∧
      t.getPhys p = BitVec.ofInt 32 (s.pc.toNat + 4 + 4096 * offset11.toInt) ∧ t.pc = s.pc + 2#32 ∧
      t.cpsr = s.cpsr ∧ Keeps [p] [] s t) ∧
    (Runs (.tBlSecond offset11) s m → ∃ t, exec (.tBlSecond offset11) s = .next t ∧
      t.pc = BitVec.ofNat 32 ((s.getPhys p).toNat + 2 * offset11.toNat) &&& 0xFFFFFFFE#32 ∧
      t.getPhys p = s.pc + 3#32 ∧ t.cpsr = s.cpsr ∧ Keeps [p] [] s t)

/-! ### Status registers, software interrupt, undefined space -/

/-- R230: MRS copies CPSR, or the SPSR of the current mode, to Rd; Rd = 15, and an SPSR that does not exist or is not defined,
stops. -/
def Obligations.StatusRead : Prop :=
  ∀ (c : Cond) (psr : Psr) (rd : Reg) (s : State) (m : Mode), Runs (.mrs c psr rd) s m →
    (rd = 15 → exec (.mrs c psr rd) s = .fault (.violation .unpredictable)) ∧
    (rd ≠ 15 → psr = .cpsr → ∃ t p, exec (.mrs c psr rd) s = .next t ∧ phys m rd = some p ∧ t.getPhys p = s.cpsr ∧
      t.cpsr = s.cpsr ∧ t.pc = s.pc + 4#32 ∧ Keeps [p] [] s t) ∧
    (∀ e, rd ≠ 15 → psr = .spsr → m = e.mode → s.spsrDef.get e = true → ∃ t p, exec (.mrs c psr rd) s = .next t ∧
      phys m rd = some p ∧ t.getPhys p = s.spsr.get e ∧ t.cpsr = s.cpsr ∧ t.pc = s.pc + 4#32 ∧ Keeps [p] [] s t) ∧
    (∀ e, rd ≠ 15 → psr = .spsr → m = e.mode → s.spsrDef.get e = false →
      exec (.mrs c psr rd) s = .fault (.violation .undefinedSPSR)) ∧
    (rd ≠ 15 → psr = .spsr → (m = .usr ∨ m = .sys) → exec (.mrs c psr rd) s = .fault (.violation .noSPSR))

/-- R231, R232: MSR to CPSR, both operand forms: the defined bits of the selected fields take the operand and no other bit
changes; an illegal mode, then a changed state bit, stops. -/
def Obligations.StatusWriteCpsr : Prop :=
  ∀ (i : Instr) (mask : BitVec 4) (operand : Word) (s : State) (m : Mode), Runs i s m →
    ((∃ c rm, i = .msrR c .cpsr mask rm ∧ rm ≠ 15 ∧ operand = s.x m rm) ∨
      (∃ c rot imm8, i = .msrI c .cpsr mask rot imm8 ∧
        operand = (imm8.setWidth 32 : Word).rotateRight (2 * rot.toNat))) →
    ((mask.getLsbD 0 = true → ∃ m', operand.extractLsb' 0 5 = Mode.bits m') →
      (mask.getLsbD 0 = true → operand.getLsbD 5 = false) →
      ∃ t, exec i s = .next t ∧
        (∀ k, k < 32 → t.cpsr.getLsbD k =
          if mask.getLsbD (k / 8) && (decide (27 ≤ k) || decide (k < 8)) then operand.getLsbD k else s.cpsr.getLsbD k) ∧
        t.pc = s.pc + 4#32 ∧ Keeps [] [] s t) ∧
    (mask.getLsbD 0 = true → (∀ m', operand.extractLsb' 0 5 ≠ Mode.bits m') →
      exec i s = .fault (.violation .illegalMode)) ∧
    (mask.getLsbD 0 = true → (∃ m', operand.extractLsb' 0 5 = Mode.bits m') → operand.getLsbD 5 = true →
      exec i s = .fault (.violation .unpredictable))

/-- R37, R231, R232: MSR to the SPSR of the current mode: the defined bits of the selected fields take the operand; selecting
both f and c defines the SPSR; the other SPSRs, CPSR and every register stay. -/
def Obligations.StatusWriteSpsr : Prop :=
  ∀ (i : Instr) (mask : BitVec 4) (operand : Word) (s : State) (m : Mode), Runs i s m →
    ((∃ c rm, i = .msrR c .spsr mask rm ∧ rm ≠ 15 ∧ operand = s.x m rm) ∨
      (∃ c rot imm8, i = .msrI c .spsr mask rot imm8 ∧
        operand = (imm8.setWidth 32 : Word).rotateRight (2 * rot.toNat))) →
    ((m = .usr ∨ m = .sys) → exec i s = .fault (.violation .noSPSR)) ∧
    (∀ e, m = e.mode → ∃ t, exec i s = .next t ∧
      (∀ k, k < 32 → (t.spsr.get e).getLsbD k =
        if mask.getLsbD (k / 8) && (decide (27 ≤ k) || decide (k < 8)) then operand.getLsbD k
        else (s.spsr.get e).getLsbD k) ∧
      t.spsrDef.get e = (s.spsrDef.get e || (mask.getLsbD 3 && mask.getLsbD 0)) ∧
      (∀ e', e' ≠ e → t.spsr.get e' = s.spsr.get e' ∧ t.spsrDef.get e' = s.spsrDef.get e') ∧
      t = { s with pc := s.pc + 4#32, spsr := t.spsr, spsrDef := t.spsrDef })

/-- R233, R268, R312: SWI takes SoftwareInterrupt with R14_svc = CUR + ISZ, whatever its comment field. -/
def Obligations.SoftwareInterrupt : Prop :=
  ∀ (i : Instr) (s : State) (m : Mode), Runs i s m →
    ((∃ c comment24, i = .swi c comment24) ∨ ∃ value8, i = .tSwi value8) →
    ∃ t, exec i s = .next t ∧ Entered .softwareInterrupt (s.pc + i.size) s t

/-- R103, R267, R311: the undefined spaces take UndefinedInstruction with R14_und = CUR + ISZ. -/
def Obligations.UndefinedSpace : Prop :=
  ∀ (i : Instr) (s : State) (m : Mode), Runs i s m →
    ((∃ c hi lo, i = .undefined c hi lo) ∨ ∃ imm8, i = .tUndefined imm8) →
    ∃ t, exec i s = .next t ∧ Entered .undefinedInstruction (s.pc + i.size) s t

/-! ### Coprocessor -/

/-- R241: a coprocessor instruction that is answered Absent takes UndefinedInstruction and does nothing else to the core. An
empty list of answers is Absent (log 7); the record of requests is log 9. -/
def Obligations.CoprocessorAbsent : Prop :=
  ∀ (i : Instr) (s : State) (m : Mode) (q : CopRequest), Runs i s m → copRequest? s m i = some q →
    unpredictableOperands m i = false → (s.copAnswers = [] ∨ ∃ rest, s.copAnswers = .absent :: rest) →
    ∃ t, exec i s = .next t ∧
      Entered .undefinedInstruction (s.pc + 4#32)
        { s with copAnswers := s.copAnswers.drop 1, copRequests := q :: s.copRequests } t

/-- R242, R243: CDP and MCR that a coprocessor accepts make their request and only advance pc. The record of requests is log
9. -/
def Obligations.CoprocessorOperation : Prop :=
  ∀ (i : Instr) (s : State) (m : Mode) (q : CopRequest) (first : Word) (more : List Word) (rest : List CopAnswer),
    Runs i s m → copRequest? s m i = some q →
    ((∃ c opc1 crn crd cp opc2 crm, i = .cdp c opc1 crn crd cp opc2 crm) ∨
      (∃ c opc1 crn rd cp opc2 crm, i = .mcr c opc1 crn rd cp opc2 crm)) →
    s.copAnswers = .accepted first more :: rest →
    exec i s = .next { s with pc := s.pc + 4#32, copAnswers := rest, copRequests := q :: s.copRequests }

/-- R244: MRC writes the word a coprocessor answers to Rd, or with Rd = 15 its bits 31 to 28 to N, Z, C, V. The record of
requests is log 9. -/
def Obligations.CoprocessorRead : Prop :=
  ∀ (c : Cond) (opc1 : BitVec 3) (crn : BitVec 4) (rd : Reg) (cp : BitVec 4) (opc2 : BitVec 3) (crm : BitVec 4)
    (s : State) (m : Mode) (first : Word) (more : List Word) (rest : List CopAnswer),
    Runs (.mrc c opc1 crn rd cp opc2 crm) s m → s.copAnswers = .accepted first more :: rest →
    ∃ t, exec (.mrc c opc1 crn rd cp opc2 crm) s = .next t ∧ t.pc = s.pc + 4#32 ∧
      (rd ≠ 15 → t.cpsr = s.cpsr) ∧
      (∀ p, phys m rd = some p → t.getPhys p = first) ∧
      (rd = 15 → FlagsBecome s.cpsr t.cpsr (first.getLsbD 31) (first.getLsbD 30) (first.getLsbD 29) (first.getLsbD 28)) ∧
      Keeps (phys m rd).toList []
        { s with copAnswers := rest, copRequests := .moveFrom cp opc1 crn crm opc2 :: s.copRequests } t

/-- R245: LDC that a coprocessor accepts: as many words as it asks for (the length of its answer, log 8) from ascending word
addresses go to it, the base is written back, and nothing else of the core changes. The answer is used up (log 7), the record
of requests is log 9, and a device is log 5. That MISALIGN = refuse does not stop LDC with an unaligned base is the model's
reading (log 15). -/
def Obligations.CoprocessorLoad : Prop :=
  ∀ (c : Cond) (p u n w : Bool) (rn : Reg) (crd cp : BitVec 4) (offset8 : BitVec 8) (s : State) (m : Mode)
    (first : Word) (more : List Word) (rest : List CopAnswer),
    let i : Instr := .ldc c p u n w rn crd cp offset8
    let ad := indexedAddress p u w rn (s.x m rn) (BitVec.ofNat 32 (4 * offset8.toNat))
    Runs i s m → unpredictableOperands m i = false → s.copAnswers = .accepted first more :: rest →
    (∀ k, k < more.length + 1 → s.answers false (copWordAddress ad k) = true) →
    ∃ t words, exec i s = .next t ∧ words.length = more.length + 1 ∧
      (∀ k, k < more.length + 1 → s.isDevice (copWordAddress ad k) = false → ∀ j, j < 4 →
        (words.getD k 0#32).extractLsb' (8 * j) 8 = s.mem.read ((copWordAddress ad k).toNat + j)) ∧
      ad.WrittenBack m t ∧ t.cpsr = s.cpsr ∧ t.pc = s.pc + 4#32 ∧
      Keeps (ad.written m) []
        { s with copAnswers := rest, copRequests := .loadData words :: .load cp crd n :: s.copRequests } t

/-- R246: STC that a coprocessor accepts: its words go to ascending word addresses, the base is written back, and nothing
else of the core changes (no two of its words share an address: the list is shorter than the address space). The words are
the answer (log 8), which is used up (log 7), the record of requests is log 9, and a device records its writes (log 5). That
MISALIGN = refuse does not stop STC with an unaligned base is the model's reading (log 15). -/
def Obligations.CoprocessorStore : Prop :=
  ∀ (c : Cond) (p u n w : Bool) (rn : Reg) (crd cp : BitVec 4) (offset8 : BitVec 8) (s : State) (m : Mode)
    (first : Word) (more : List Word) (rest : List CopAnswer),
    let i : Instr := .stc c p u n w rn crd cp offset8
    let ad := indexedAddress p u w rn (s.x m rn) (BitVec.ofNat 32 (4 * offset8.toNat))
    Runs i s m → unpredictableOperands m i = false → s.copAnswers = .accepted first more :: rest →
    more.length < 2 ^ 30 →
    (∀ k, k < more.length + 1 → s.accepts (copWordAddress ad k) = true) →
    ∃ t, exec i s = .next t ∧
      (∀ k, k < more.length + 1 → s.isDevice (copWordAddress ad k) = false → ∀ j, j < 4 →
        t.mem.read ((copWordAddress ad k).toNat + j) = ((first :: more).getD k 0#32).extractLsb' (8 * j) 8) ∧
      ad.WrittenBack m t ∧ t.cpsr = s.cpsr ∧ t.pc = s.pc + 4#32 ∧
      Keeps (ad.written m) (s.storedCells (more.length + 1) (copWordAddress ad))
        { s with copAnswers := rest, copRequests := .store cp crd n :: s.copRequests,
                 deviceWrites := s.recordedWords (more.length + 1) (copWordAddress ad) ((first :: more).getD · 0#32) } t

/-- R210, R245, R246: LDC and STC whose n-th request is the first to answer Fault: the words before it are stored, the base is
written back, phase 2 of LDC is not reached, and DataAbort is taken. For an answer of at most 2^30 words (log 8), which is used
up (log 7); the record of requests is log 9, and a device records its writes (log 5). That MISALIGN = refuse stops neither
with an unaligned base is the model's reading (log 15). -/
def Obligations.CoprocessorTransferAborts : Prop :=
  ∀ (load : Bool) (c : Cond) (p u n w : Bool) (rn : Reg) (crd cp : BitVec 4) (offset8 : BitVec 8) (s : State) (m : Mode)
    (first : Word) (more : List Word) (rest : List CopAnswer) (f : Nat),
    let i : Instr := if load then .ldc c p u n w rn crd cp offset8 else .stc c p u n w rn crd cp offset8
    let q : CopRequest := if load then .load cp crd n else .store cp crd n
    let ad := indexedAddress p u w rn (s.x m rn) (BitVec.ofNat 32 (4 * offset8.toNat))
    Runs i s m → unpredictableOperands m i = false → s.copAnswers = .accepted first more :: rest →
    more.length < 2 ^ 30 → f < more.length + 1 →
    (∀ k, k < f → (if load then s.answers false (copWordAddress ad k) else s.accepts (copWordAddress ad k)) = true) →
    (if load then s.answers false (copWordAddress ad f) else s.accepts (copWordAddress ad f)) = false →
    ∃ v t, exec i s = .next t ∧
      (load = false → ∀ k, k < f → s.isDevice (copWordAddress ad k) = false → ∀ j, j < 4 →
        v.mem.read ((copWordAddress ad k).toNat + j) = ((first :: more).getD k 0#32).extractLsb' (8 * j) 8) ∧
      ad.WrittenBack m v ∧ v.cpsr = s.cpsr ∧ v.pc = s.pc ∧
      Keeps (ad.written m) (if load then [] else s.storedCells f (copWordAddress ad))
        { s with copAnswers := rest, copRequests := q :: s.copRequests,
                 deviceWrites := if load then s.deviceWrites
                   else s.recordedWords f (copWordAddress ad) ((first :: more).getD · 0#32) } v ∧
      Entered .dataAbort (s.pc + 8#32) v t

/-! ### Exceptions -/

/-- R301: the fixed table: target mode, vector offset, whether F is forced, and the order of priority. -/
def Obligations.ExceptionTable : Prop :=
  (ExcKind.reset.target = .svc ∧ ExcKind.reset.offset = 0x00#32 ∧ ExcKind.reset.forcesF = true) ∧
  (ExcKind.undefinedInstruction.target = .und ∧ ExcKind.undefinedInstruction.offset = 0x04#32 ∧
    ExcKind.undefinedInstruction.forcesF = false) ∧
  (ExcKind.softwareInterrupt.target = .svc ∧ ExcKind.softwareInterrupt.offset = 0x08#32 ∧
    ExcKind.softwareInterrupt.forcesF = false) ∧
  (ExcKind.prefetchAbort.target = .abt ∧ ExcKind.prefetchAbort.offset = 0x0C#32 ∧
    ExcKind.prefetchAbort.forcesF = false) ∧
  (ExcKind.dataAbort.target = .abt ∧ ExcKind.dataAbort.offset = 0x10#32 ∧ ExcKind.dataAbort.forcesF = false) ∧
  (ExcKind.addressExceeds26Bit.target = .svc ∧ ExcKind.addressExceeds26Bit.offset = 0x14#32 ∧
    ExcKind.addressExceeds26Bit.forcesF = false) ∧
  (ExcKind.normalInterrupt.target = .irq ∧ ExcKind.normalInterrupt.offset = 0x18#32 ∧
    ExcKind.normalInterrupt.forcesF = false) ∧
  (ExcKind.fastInterrupt.target = .fiq ∧ ExcKind.fastInterrupt.offset = 0x1C#32 ∧
    ExcKind.fastInterrupt.forcesF = true) ∧
  ExcKind.reset.rank < ExcKind.dataAbort.rank ∧ ExcKind.dataAbort.rank < ExcKind.fastInterrupt.rank ∧
  ExcKind.fastInterrupt.rank < ExcKind.normalInterrupt.rank ∧
  ExcKind.normalInterrupt.rank < ExcKind.prefetchAbort.rank ∧
  ExcKind.prefetchAbort.rank < ExcKind.softwareInterrupt.rank ∧
  ExcKind.softwareInterrupt.rank < ExcKind.addressExceeds26Bit.rank ∧
  ExcKind.addressExceeds26Bit.rank < ExcKind.undefinedInstruction.rank

/-- R305, R306: taking each of the eight exceptions: what is saved, what CPSR becomes, the return address of each kind in each
state, the vector, and that nothing else changes. -/
def Obligations.ExceptionEntry : Prop :=
  ∀ (s : State) (a : Word),
    Entered .softwareInterrupt (if psrT s.cpsr then a + 2#32 else a + 4#32) s (s.raise .softwareInterrupt a) ∧
    Entered .undefinedInstruction (if psrT s.cpsr then a + 2#32 else a + 4#32) s (s.raise .undefinedInstruction a) ∧
    (psrT s.cpsr = false → Entered .prefetchAbort (a + 4#32) s (s.raise .prefetchAbort a)) ∧
    (psrT s.cpsr = true → s.params.pabtThumbLr = .next → Entered .prefetchAbort (a + 2#32) s (s.raise .prefetchAbort a)) ∧
    (psrT s.cpsr = true → s.params.pabtThumbLr = .plus4 →
      Entered .prefetchAbort (a + 4#32) s (s.raise .prefetchAbort a)) ∧
    Entered .dataAbort (a + 8#32) s (s.raise .dataAbort a) ∧
    Entered .normalInterrupt (a + 4#32) s (s.raise .normalInterrupt a) ∧
    Entered .fastInterrupt (a + 4#32) s (s.raise .fastInterrupt a) ∧
    Entered .reset a s (s.raise .reset a) ∧
    Entered .addressExceeds26Bit (a + 4#32) s (s.raise .addressExceeds26Bit a)

/-! ### The step -/

/-- R130, R132: when no request is taken at the boundary and the bytes at pc decode to an instruction, the step is that
instruction and then the tick of the cycle counter; the violation of an instruction is the step's. The number of the step:
log 10. -/
def Obligations.StepRunsDecoded : Prop :=
  ∀ (s : State) (i : Instr), s.Inv → s.halted = none → s.resetPending = false →
    (s.fiqPending && !psrF s.cpsr) = false → (s.irqPending && !psrI s.cpsr) = false →
    s.answers true s.pc = true → s.isDevice s.pc = false →
    decodeBytes s.params.v4tExtras (psrT s.cpsr)
      ((List.range (if psrT s.cpsr then 2 else 4)).map (fun k => s.mem.read (s.pc.toNat + k))) = .ok (i, []) →
    (∀ t, exec i s = .next t →
      step s = .next { t with cycles := t.cycles + t.params.cycleInc, draws := t.draws + 1 }) ∧
    (∀ f, exec i s = .fault f → step s = .fault f)

/-- R130, R302, R321 to R323: the boundary: Reset before everything, then the legality checks, then FIQ, then IRQ; each taken
request is cleared, a masked one stays. -/
def Obligations.BoundaryOrder : Prop :=
  ∀ s : State, s.halted = none →
    (s.resetPending = true →
      step s = .next (({ s with resetPending := false } : State).raise .reset s.pc).tick) ∧
    (s.resetPending = false → s.mode? = none → step s = .fault (.violation .illegalMode)) ∧
    (s.resetPending = false → s.mode? ≠ none → s.pcAligned = false → step s = .fault (.violation .misalignedPC)) ∧
    (s.resetPending = false → s.mode? ≠ none → s.pcAligned = true → s.fiqPending = true → psrF s.cpsr = false →
      step s = .next (({ s with fiqPending := false } : State).raise .fastInterrupt s.pc).tick) ∧
    (s.resetPending = false → s.mode? ≠ none → s.pcAligned = true → (s.fiqPending = false ∨ psrF s.cpsr = true) →
      s.irqPending = true → psrI s.cpsr = false →
      step s = .next (({ s with irqPending := false } : State).raise .normalInterrupt s.pc).tick)

/-- R111, R132, R313: a fetch that answers Fault takes PrefetchAbort; bits that do not decode are
violation(NoMatchingOpcode). A device answers a free value (log 5). -/
def Obligations.FetchOutcomes : Prop :=
  ∀ s : State, s.Inv → s.halted = none → s.resetPending = false →
    (s.fiqPending && !psrF s.cpsr) = false → (s.irqPending && !psrI s.cpsr) = false →
    (s.answers true s.pc = false → step s = .next (s.raise .prefetchAbort s.pc).tick) ∧
    (∀ e, s.answers true s.pc = true → s.isDevice s.pc = false →
      decodeBytes s.params.v4tExtras (psrT s.cpsr)
        ((List.range (if psrT s.cpsr then 2 else 4)).map (fun k => s.mem.read (s.pc.toNat + k))) = .error e →
      step s = .fault (.violation .noMatchingOpcode)) ∧
    (s.answers true s.pc = true → s.isDevice s.pc = true → (∃ t, step s = .next t) ∨ ∃ v, step s = .fault (.violation v))

/-- R40, R140, R330, R365: after a violation the core is halted and nothing else has changed, a halted core has no step, and a
run ends at its end address in a core that is not halted, never by a violation. How the model renders a violation: log 11; the
end of a run, a convention: log 25. -/
def Obligations.ViolationHalts : Prop :=
  (∀ (s : State) (v : Violation), step s = .fault (.violation v) → s.afterStep = { s with halted := some v }) ∧
  (∀ (s : State) (v : Violation), s.halted = some v → step s = .fault (.halted v) ∧ s.afterStep = s) ∧
  (∀ (s t : State), step s = .next t → t.halted = none ∧ s.afterStep = t) ∧
  (∀ (s : State) (r : Refusal), step s ≠ .refused r) ∧
  (∀ (endAt : Word) (n : Nat) (s t : State), s.runTo endAt n = some t → t.pc = endAt ∧ t.halted = none) ∧
  (∀ (endAt : Word) (n : Nat) (s : State) (f : Fault), step s = .fault f → s.pc ≠ endAt ∨ s.halted ≠ none →
    s.runTo endAt n = none)

/-- R29, R36: every step from a legal state to a next state gives a legal state: storage stays canonical, the mode is one of
the seven, pc is aligned for the state bit. The vectors are word addresses (log 2). -/
def Obligations.StepKeepsInv : Prop :=
  ∀ s t : State, s.Inv → step s = .next t → t.Inv

/-- The state after reset is legal. -/
def Obligations.ResetIsLegal : Prop := State.reset.Inv

/-- R41, R42, R322, R37: what every step does to the counter, the latches, the parameters and the definedness of the SPSRs.
Parameters and windows: log 2, 4. The number of the step (`draws`): log 10. -/
def Obligations.StepFrame : Prop :=
  ∀ s t : State, step s = .next t →
    t.cycles = s.cycles + s.params.cycleInc ∧ t.draws = s.draws + 1 ∧ t.params = s.params ∧ t.regions = s.regions ∧
    (t.resetPending = false) ∧
    (t.irqPending = s.irqPending ∨
      (t.irqPending = false ∧ s.irqPending = true ∧ psrI s.cpsr = false ∧ t.pc = s.params.vectorBase + 0x18#32)) ∧
    (t.fiqPending = s.fiqPending ∨
      (t.fiqPending = false ∧ s.fiqPending = true ∧ psrF s.cpsr = false ∧ t.pc = s.params.vectorBase + 0x1C#32)) ∧
    (∀ e, s.spsrDef.get e = true → t.spsrDef.get e = true)

/-- R32, R33: no instruction changes the reserved bits 26 to 8 of CPSR, and none but MSR changes Q, except by restoring an
SPSR; an SPSR's reserved bits change only by an exception entry. -/
def Obligations.ReservedBits : Prop :=
  ∀ (i : Instr) (s t : State), exec i s = .next t →
    ((∃ e, s.mode? = some e.mode ∧ s.spsrDef.get e = true ∧ t.cpsr = s.spsr.get e) ∨
      (psrReserved t.cpsr = psrReserved s.cpsr ∧
        (psrQ t.cpsr = psrQ s.cpsr ∨ (∃ c mask rm, i = .msrR c .cpsr mask rm) ∨
          (∃ c mask rot imm8, i = .msrI c .cpsr mask rot imm8)))) ∧
    (∀ e, psrReserved (t.spsr.get e) = psrReserved (s.spsr.get e) ∨ t.spsr.get e = s.cpsr)

/-- R35, R46, R271: an instruction changes the state bit only by BX, an exception return or an exception entry, and the mode
only by MSR, an exception return or an exception entry. -/
def Obligations.StateAndMode : Prop :=
  ∀ (i : Instr) (s t : State), exec i s = .next t →
    (∃ e, s.mode? = some e.mode ∧ s.spsrDef.get e = true ∧ t.cpsr = s.spsr.get e) ∨
    (∃ k : ExcKind, (k = .undefinedInstruction ∨ k = .softwareInterrupt ∨ k = .dataAbort) ∧
      t.pc = s.params.vectorBase + k.offset ∧ t.spsr.get k.target = s.cpsr ∧ t.spsrDef.get k.target = true ∧
      psrT t.cpsr = false ∧ psrM t.cpsr = k.target.mode.bits) ∨
    ((psrT t.cpsr = psrT s.cpsr ∨ (∃ c r, i = .bx c r) ∨ (∃ r, i = .tBx r)) ∧
      (psrM t.cpsr = psrM s.cpsr ∨ (∃ c mask rm, i = .msrR c .cpsr mask rm) ∨
        (∃ c mask rot imm8, i = .msrI c .cpsr mask rot imm8)))

/-! ### Reset, memory, host -/

/-- R45, R350, R352: one step after construction the core is at the values "after power-on reset"; with the environment and
parameters of `State.reset` that state is `State.reset` (log 12), whatever the number of its step. -/
def Obligations.PowerOn : Prop :=
  (∀ env : State, ∃ t, step env.hostPowerOn = .next t ∧
    (∀ p, t.getPhys p = 0#32) ∧ t.pc = env.params.vectorBase ∧ t.cpsr = 0x000000D3#32 ∧
    (∀ e, t.spsr.get e = 0#32) ∧ (∀ e, t.spsrDef.get e = decide (e = .svc)) ∧
    t.irqPending = false ∧ t.fiqPending = false ∧ t.resetPending = false ∧ t.halted = none ∧
    t.cycles = env.params.cycleInc ∧ t.mem = env.mem) ∧
  ∃ d, step State.reset.hostPowerOn = .next { State.reset with draws := d }

/-- R351: a warm reset keeps every register but R14_svc, the flags and the reserved bits, the other SPSRs, the other latches,
memory, the devices and the coprocessors, and enters Supervisor mode at the reset vector; a halted core cannot take it. -/
def Obligations.WarmReset : Prop :=
  (∀ (s : State) (v : Violation), s.halted = some v → step s.hostReset = .fault (.halted v)) ∧
  ∀ s : State, s.halted = none → ∃ t, step s.hostReset = .next t ∧
    t.spsr.get .svc = s.cpsr ∧ t.spsrDef.get .svc = true ∧ t.getPhys (.lr .svc) = s.pc ∧
    t.mode? = some .svc ∧ psrI t.cpsr = true ∧ psrF t.cpsr = true ∧ psrT t.cpsr = false ∧
    t.pc = s.params.vectorBase ∧ t.resetPending = false ∧ t.cycles = s.cycles + s.params.cycleInc ∧
    (∀ p, p ≠ .lr .svc → t.getPhys p = s.getPhys p) ∧
    t.cpsr.extractLsb' 8 24 = s.cpsr.extractLsb' 8 24 ∧
    (∀ e, e ≠ .svc → t.spsr.get e = s.spsr.get e ∧ t.spsrDef.get e = s.spsrDef.get e) ∧
    t.irqPending = s.irqPending ∧ t.fiqPending = s.fiqPending ∧ t.mem = s.mem ∧ t.copAnswers = s.copAnswers ∧
    t.copRequests = s.copRequests ∧ t.regions = s.regions ∧ t.deviceWrites = s.deviceWrites ∧ t.halted = none

/-- Storage reads as last written, byte by byte, keeps its canonical form, and equal contents are equal lists: the model's
representation of memory (log 3). R63: it is little-endian: after a word write at a word-aligned address, bytes and halfwords
inside it are the word's, for a data read and for a fetch. -/
def Obligations.Storage : Prop :=
  (∀ (mem : Memory) (n k : Nat) (v : Byte), mem.wf = true → n < 2 ^ 32 →
    (mem.write n v).wf = true ∧ (mem.write n v).read k = if k = n then v else mem.read k) ∧
  (∀ (mem mem' : Memory), mem.wf = true → mem'.wf = true → (∀ n, mem.read n = mem'.read n) → mem = mem') ∧
  (∀ (s t : State) (a v : Word), s.mem.wf = true → a.toNat % 4 = 0 → s.isDevice a = false →
    s.memWrite a (wordBytes v) = some t →
    (∀ k, k < 4 → t.answers false (a + BitVec.ofNat 32 k) = true → t.isDevice (a + BitVec.ofNat 32 k) = false →
      t.memReadByte (a + BitVec.ofNat 32 k) = some (v.extractLsb' (8 * k) 8)) ∧
    (∀ fetch h, h < 2 → t.answers fetch (a + BitVec.ofNat 32 (2 * h)) = true →
      t.isDevice (a + BitVec.ofNat 32 (2 * h)) = false →
      t.memReadHalf fetch (a + BitVec.ofNat 32 (2 * h)) = some (v.extractLsb' (16 * h) 16)) ∧
    ∀ fetch, t.answers fetch a = true → t.memReadWord fetch a = some v)

/-- R26, R27, R320: what the host may do between steps: registers by bank or by the current mode, pc and CPSR verbatim, an
SPSR (which becomes defined; an undefined one has no answer), and the three latches; each changes its own item only. Between
steps: log 18. -/
def Obligations.HostAccess : Prop :=
  ∀ (s : State) (m : Mode) (r : Reg) (e : ExcMode) (v : Word),
    (s.hostWriteBank m r v).hostReadBank m r = v ∧
    (∀ p, phys m r = some p → s.hostWriteBank m r v = s.setPhys p v) ∧
    (r = 15 → s.hostWriteBank m r v = { s with pc := v }) ∧
    (s.mode? = some m → s.hostRead r = some (s.hostReadBank m r) ∧ s.hostWrite r v = some (s.hostWriteBank m r v)) ∧
    (s.hostWriteCpsr v).cpsr = v ∧ s.hostWriteCpsr v = { s with cpsr := v } ∧
    s.hostWriteSpsr e v = { s with spsr := s.spsr.set e v, spsrDef := s.spsrDef.set e true } ∧
    (s.hostWriteSpsr e v).hostReadSpsr e = some v ∧
    (∀ e', e' ≠ e → (s.hostWriteSpsr e v).hostReadSpsr e' = s.hostReadSpsr e') ∧
    (s.spsrDef.get e = false → s.hostReadSpsr e = none) ∧
    s.hostIrq = { s with irqPending := true } ∧ s.hostFiq = { s with fiqPending := true } ∧
    s.hostReset = { s with resetPending := true }
end

