-- ==== Sys2Proof/Laws/Flags.lean ====
section
/-! SUPPORT. The bits of a status register after each update a meaning makes. -/
namespace Sys2Proof.Machine

theorem setNZCV_bit (p : Word) (n z c v : Bool) (k : Nat) : (setNZCV p n z c v).getLsbD k =
   if k < 28 then p.getLsbD k else if k = 28 then v else if k = 29 then c else if k = 30 then z else if k = 31 then n else false := by
  simp only [setNZCV, BitVec.getLsbD_append, BitVec.getLsbD_extractLsb', BitVec.getLsbD_ofBool]
  by_cases h : k < 28
  · simp [h]
  · by_cases h1 : k < 32
    · obtain rfl | rfl | rfl | rfl : k = 28 ∨ k = 29 ∨ k = 30 ∨ k = 31 := by omega
      all_goals simp
    · simp only [h, if_false]
      rw [if_neg (by omega), if_neg (by omega), if_neg (by omega), if_neg (by omega), if_neg (by omega), if_neg (by omega), if_neg (by omega)]
      simp; omega

theorem setNZCV_low (p : Word) (n z c v : Bool) : (setNZCV p n z c v).extractLsb' 0 28 = p.extractLsb' 0 28 := by
  apply BitVec.eq_of_getLsbD_eq
  intro k hk
  simp only [BitVec.getLsbD_extractLsb', setNZCV_bit]
  simp [hk]

@[simp] theorem psrN_setNZCV (p : Word) (n z c v : Bool) : psrN (setNZCV p n z c v) = n := by
  simp only [psrN, setNZCV_bit]; simp

@[simp] theorem psrZ_setNZCV (p : Word) (n z c v : Bool) : psrZ (setNZCV p n z c v) = z := by
  simp only [psrZ, setNZCV_bit]; simp

@[simp] theorem psrC_setNZCV (p : Word) (n z c v : Bool) : psrC (setNZCV p n z c v) = c := by
  simp only [psrC, setNZCV_bit]; simp

@[simp] theorem psrV_setNZCV (p : Word) (n z c v : Bool) : psrV (setNZCV p n z c v) = v := by
  simp only [psrV, setNZCV_bit]; simp

theorem getLsbD_of_low {p q : Word} (h : q.extractLsb' 0 28 = p.extractLsb' 0 28) {k : Nat} (hk : k < 28) :
    q.getLsbD k = p.getLsbD k := by
  have := congrArg (fun x : BitVec 28 => x.getLsbD k) h
  simpa [BitVec.getLsbD_extractLsb', hk] using this

theorem reserved_of_low {p q : Word} (h : q.extractLsb' 0 28 = p.extractLsb' 0 28) : psrReserved q = psrReserved p := by
  apply BitVec.eq_of_getLsbD_eq
  intro k hk
  simp only [psrReserved, BitVec.getLsbD_extractLsb', hk, decide_true, Bool.true_and]
  exact getLsbD_of_low h (by omega)

theorem mode_of_low {p q : Word} (h : q.extractLsb' 0 28 = p.extractLsb' 0 28) : psrM q = psrM p := by
  apply BitVec.eq_of_getLsbD_eq
  intro k hk
  simp only [psrM, BitVec.getLsbD_extractLsb', hk, decide_true, Bool.true_and]
  exact getLsbD_of_low h (by omega)

theorem t_of_low {p q : Word} (h : q.extractLsb' 0 28 = p.extractLsb' 0 28) : psrT q = psrT p :=
  getLsbD_of_low h (by omega)

theorem q_of_low {p q : Word} (h : q.extractLsb' 0 28 = p.extractLsb' 0 28) : psrQ q = psrQ p :=
  getLsbD_of_low h (by omega)

theorem setT_bit (p : Word) (t : Bool) (k : Nat) : (setT p t).getLsbD k = if k = 5 then t else p.getLsbD k := by
  simp only [setT, BitVec.getLsbD_append, BitVec.getLsbD_extractLsb', BitVec.getLsbD_ofBool]
  by_cases h5 : k < 5
  · simp [h5]; omega
  · by_cases h : k = 5
    · subst h; simp
    · have e1 : ¬ k - 5 < 1 := by omega
      have e2 : 6 + (k - 5 - 1) = k := by omega
      by_cases h32 : k < 32
      · have e3 : k - 5 - 1 < 26 := by omega
        simp only [h5, h, e1, e2, e3]; simp
      · have e3 : ¬ k - 5 - 1 < 26 := by omega
        rw [BitVec.getLsbD_of_ge p k (by omega)]
        simp only [h5, h, e1, e2, e3]; simp

@[simp] theorem psrT_setT (p : Word) (t : Bool) : psrT (setT p t) = t := by simp only [psrT, setT_bit]; simp

@[simp] theorem psrQ_setT (p : Word) (t : Bool) : psrQ (setT p t) = psrQ p := by simp only [psrQ, setT_bit]; simp

@[simp] theorem psrM_setT (p : Word) (t : Bool) : psrM (setT p t) = psrM p := by
  apply BitVec.eq_of_getLsbD_eq
  intro k hk
  simp only [psrM, BitVec.getLsbD_extractLsb', setT_bit, hk, decide_true, Bool.true_and]
  rw [if_neg (by omega)]

@[simp] theorem psrReserved_setT (p : Word) (t : Bool) : psrReserved (setT p t) = psrReserved p := by
  apply BitVec.eq_of_getLsbD_eq
  intro k hk
  simp only [psrReserved, BitVec.getLsbD_extractLsb', setT_bit, hk, decide_true, Bool.true_and]
  rw [if_neg (by omega)]

theorem entryPsr_bit (p : Word) (m : BitVec 5) (f : Bool) (k : Nat) : (entryPsr p m f).getLsbD k =
   if k < 5 then m.getLsbD k else if k = 5 then false else if k = 6 then f || psrF p else if k = 7 then true else p.getLsbD k := by
  simp only [entryPsr, BitVec.getLsbD_append, BitVec.getLsbD_extractLsb', BitVec.getLsbD_ofBool]
  by_cases h5 : k < 5
  · simp [h5]
  · by_cases h8 : k < 8
    · obtain rfl | rfl | rfl : k = 5 ∨ k = 6 ∨ k = 7 := by omega
      all_goals simp
    · have e1 : ¬ k - 5 < 1 := by omega
      have e1' : ¬ k - 5 - 1 < 1 := by omega
      have e1'' : ¬ k - 5 - 1 - 1 < 1 := by omega
      have e2 : 8 + (k - 5 - 1 - 1 - 1) = k := by omega
      have g1 : ¬ k = 5 := by omega
      have g2 : ¬ k = 6 := by omega
      have g3 : ¬ k = 7 := by omega
      by_cases h32 : k < 32
      · have e3 : k - 5 - 1 - 1 - 1 < 24 := by omega
        simp only [h5, e1, e1', e1'', e2, e3, g1, g2, g3]; simp
      · have e3 : ¬ k - 5 - 1 - 1 - 1 < 24 := by omega
        rw [BitVec.getLsbD_of_ge p k (by omega)]
        simp only [h5, e1, e1', e1'', e3, g1, g2, g3]; simp

@[simp] theorem psrM_entryPsr (p : Word) (m : BitVec 5) (f : Bool) : psrM (entryPsr p m f) = m := by
  apply BitVec.eq_of_getLsbD_eq
  intro k hk
  simp only [psrM, BitVec.getLsbD_extractLsb', entryPsr_bit, hk, decide_true, Bool.true_and]
  rw [if_pos (by omega), Nat.zero_add]

@[simp] theorem psrT_entryPsr (p : Word) (m : BitVec 5) (f : Bool) : psrT (entryPsr p m f) = false := by
  simp only [psrT, entryPsr_bit]; simp

@[simp] theorem psrF_entryPsr (p : Word) (m : BitVec 5) (f : Bool) : psrF (entryPsr p m f) = (f || psrF p) := by
  simp only [psrF, entryPsr_bit]; simp

@[simp] theorem psrI_entryPsr (p : Word) (m : BitVec 5) (f : Bool) : psrI (entryPsr p m f) = true := by
  simp only [psrI, entryPsr_bit]; simp

@[simp] theorem psrQ_entryPsr (p : Word) (m : BitVec 5) (f : Bool) : psrQ (entryPsr p m f) = psrQ p := by
  simp only [psrQ, entryPsr_bit]; simp

theorem entryPsr_upper (p : Word) (m : BitVec 5) (f : Bool) :
    (entryPsr p m f).extractLsb' 8 24 = p.extractLsb' 8 24 := by
  apply BitVec.eq_of_getLsbD_eq
  intro k hk
  simp only [BitVec.getLsbD_extractLsb', entryPsr_bit, hk, decide_true, Bool.true_and]
  rw [if_neg (by omega), if_neg (by omega), if_neg (by omega), if_neg (by omega)]

@[simp] theorem psrReserved_entryPsr (p : Word) (m : BitVec 5) (f : Bool) :
    psrReserved (entryPsr p m f) = psrReserved p := by
  apply BitVec.eq_of_getLsbD_eq
  intro k hk
  simp only [psrReserved, BitVec.getLsbD_extractLsb', entryPsr_bit, hk, decide_true, Bool.true_and]
  rw [if_neg (by omega), if_neg (by omega), if_neg (by omega), if_neg (by omega)]

/-- The bits MSR writes (R231): the selected bytes, less bits 26 to 8. -/
theorem writeMask_bit (mask : BitVec 4) (k : Nat) (hk : k < 32) :
    (writeMask mask).getLsbD k = (mask.getLsbD (k / 8) && (decide (27 ≤ k) || decide (k < 8))) := by
  have : ∀ k : Fin 32, ∀ mask : BitVec 4, (writeMask mask).getLsbD k.val =
      (mask.getLsbD (k.val / 8) && (decide (27 ≤ k.val) || decide (k.val < 8))) := by decide
  exact this ⟨k, hk⟩ mask

theorem mergePsr_bit (old operand w : Word) (k : Nat) (hk : k < 32) :
    (mergePsr old operand w).getLsbD k = if w.getLsbD k then operand.getLsbD k else old.getLsbD k := by
  simp only [mergePsr, BitVec.getLsbD_or, BitVec.getLsbD_and, BitVec.getLsbD_not, hk, decide_true, Bool.true_and]
  cases w.getLsbD k <;> simp

theorem psrReserved_merge (old operand : Word) (mask : BitVec 4) :
    psrReserved (mergePsr old operand (writeMask mask)) = psrReserved old := by
  apply BitVec.eq_of_getLsbD_eq
  intro k hk
  simp only [psrReserved, BitVec.getLsbD_extractLsb', hk, decide_true, Bool.true_and]
  rw [mergePsr_bit _ _ _ _ (by omega), writeMask_bit _ _ (by omega)]
  have h1 : ¬ 27 ≤ 8 + k := by omega
  have h2 : ¬ 8 + k < 8 := by omega
  simp [h1, h2]

end Sys2Proof.Machine
end

