-- ==== Sys2Proof/Laws/State.lean ====
section
/-! SUPPORT. One lemma per field per update of State: what the update leaves in the field. -/
namespace Sys2Proof.Machine.State

@[simp] theorem setPhys_regs (s : State) (p : PhysReg) (v : Word) : (s.setPhys p v).regs = s.regs.set p v := rfl
@[simp] theorem setPhys_pc (s : State) (p : PhysReg) (v : Word) : (s.setPhys p v).pc = s.pc := rfl
@[simp] theorem setPhys_cpsr (s : State) (p : PhysReg) (v : Word) : (s.setPhys p v).cpsr = s.cpsr := rfl
@[simp] theorem setPhys_spsr (s : State) (p : PhysReg) (v : Word) : (s.setPhys p v).spsr = s.spsr := rfl
@[simp] theorem setPhys_spsrDef (s : State) (p : PhysReg) (v : Word) : (s.setPhys p v).spsrDef = s.spsrDef := rfl
@[simp] theorem setPhys_irqPending (s : State) (p : PhysReg) (v : Word) : (s.setPhys p v).irqPending = s.irqPending := rfl
@[simp] theorem setPhys_fiqPending (s : State) (p : PhysReg) (v : Word) : (s.setPhys p v).fiqPending = s.fiqPending := rfl
@[simp] theorem setPhys_resetPending (s : State) (p : PhysReg) (v : Word) : (s.setPhys p v).resetPending = s.resetPending := rfl
@[simp] theorem setPhys_halted (s : State) (p : PhysReg) (v : Word) : (s.setPhys p v).halted = s.halted := rfl
@[simp] theorem setPhys_cycles (s : State) (p : PhysReg) (v : Word) : (s.setPhys p v).cycles = s.cycles := rfl
@[simp] theorem setPhys_mem (s : State) (p : PhysReg) (v : Word) : (s.setPhys p v).mem = s.mem := rfl
@[simp] theorem setPhys_regions (s : State) (p : PhysReg) (v : Word) : (s.setPhys p v).regions = s.regions := rfl
@[simp] theorem setPhys_deviceWrites (s : State) (p : PhysReg) (v : Word) : (s.setPhys p v).deviceWrites = s.deviceWrites := rfl
@[simp] theorem setPhys_copAnswers (s : State) (p : PhysReg) (v : Word) : (s.setPhys p v).copAnswers = s.copAnswers := rfl
@[simp] theorem setPhys_copRequests (s : State) (p : PhysReg) (v : Word) : (s.setPhys p v).copRequests = s.copRequests := rfl
@[simp] theorem setPhys_params (s : State) (p : PhysReg) (v : Word) : (s.setPhys p v).params = s.params := rfl
@[simp] theorem setPhys_draws (s : State) (p : PhysReg) (v : Word) : (s.setPhys p v).draws = s.draws := rfl

@[simp] theorem setPc_regs (s : State) (v : Word) : (s.setPc v).regs = s.regs := rfl
@[simp] theorem setPc_pc (s : State) (v : Word) : (s.setPc v).pc = v := rfl
@[simp] theorem setPc_cpsr (s : State) (v : Word) : (s.setPc v).cpsr = s.cpsr := rfl
@[simp] theorem setPc_spsr (s : State) (v : Word) : (s.setPc v).spsr = s.spsr := rfl
@[simp] theorem setPc_spsrDef (s : State) (v : Word) : (s.setPc v).spsrDef = s.spsrDef := rfl
@[simp] theorem setPc_irqPending (s : State) (v : Word) : (s.setPc v).irqPending = s.irqPending := rfl
@[simp] theorem setPc_fiqPending (s : State) (v : Word) : (s.setPc v).fiqPending = s.fiqPending := rfl
@[simp] theorem setPc_resetPending (s : State) (v : Word) : (s.setPc v).resetPending = s.resetPending := rfl
@[simp] theorem setPc_halted (s : State) (v : Word) : (s.setPc v).halted = s.halted := rfl
@[simp] theorem setPc_cycles (s : State) (v : Word) : (s.setPc v).cycles = s.cycles := rfl
@[simp] theorem setPc_mem (s : State) (v : Word) : (s.setPc v).mem = s.mem := rfl
@[simp] theorem setPc_regions (s : State) (v : Word) : (s.setPc v).regions = s.regions := rfl
@[simp] theorem setPc_deviceWrites (s : State) (v : Word) : (s.setPc v).deviceWrites = s.deviceWrites := rfl
@[simp] theorem setPc_copAnswers (s : State) (v : Word) : (s.setPc v).copAnswers = s.copAnswers := rfl
@[simp] theorem setPc_copRequests (s : State) (v : Word) : (s.setPc v).copRequests = s.copRequests := rfl
@[simp] theorem setPc_params (s : State) (v : Word) : (s.setPc v).params = s.params := rfl
@[simp] theorem setPc_draws (s : State) (v : Word) : (s.setPc v).draws = s.draws := rfl

@[simp] theorem setCpsr_regs (s : State) (v : Word) : (s.setCpsr v).regs = s.regs := rfl
@[simp] theorem setCpsr_pc (s : State) (v : Word) : (s.setCpsr v).pc = s.pc := rfl
@[simp] theorem setCpsr_cpsr (s : State) (v : Word) : (s.setCpsr v).cpsr = v := rfl
@[simp] theorem setCpsr_spsr (s : State) (v : Word) : (s.setCpsr v).spsr = s.spsr := rfl
@[simp] theorem setCpsr_spsrDef (s : State) (v : Word) : (s.setCpsr v).spsrDef = s.spsrDef := rfl
@[simp] theorem setCpsr_irqPending (s : State) (v : Word) : (s.setCpsr v).irqPending = s.irqPending := rfl
@[simp] theorem setCpsr_fiqPending (s : State) (v : Word) : (s.setCpsr v).fiqPending = s.fiqPending := rfl
@[simp] theorem setCpsr_resetPending (s : State) (v : Word) : (s.setCpsr v).resetPending = s.resetPending := rfl
@[simp] theorem setCpsr_halted (s : State) (v : Word) : (s.setCpsr v).halted = s.halted := rfl
@[simp] theorem setCpsr_cycles (s : State) (v : Word) : (s.setCpsr v).cycles = s.cycles := rfl
@[simp] theorem setCpsr_mem (s : State) (v : Word) : (s.setCpsr v).mem = s.mem := rfl
@[simp] theorem setCpsr_regions (s : State) (v : Word) : (s.setCpsr v).regions = s.regions := rfl
@[simp] theorem setCpsr_deviceWrites (s : State) (v : Word) : (s.setCpsr v).deviceWrites = s.deviceWrites := rfl
@[simp] theorem setCpsr_copAnswers (s : State) (v : Word) : (s.setCpsr v).copAnswers = s.copAnswers := rfl
@[simp] theorem setCpsr_copRequests (s : State) (v : Word) : (s.setCpsr v).copRequests = s.copRequests := rfl
@[simp] theorem setCpsr_params (s : State) (v : Word) : (s.setCpsr v).params = s.params := rfl
@[simp] theorem setCpsr_draws (s : State) (v : Word) : (s.setCpsr v).draws = s.draws := rfl

@[simp] theorem setSpsr_regs (s : State) (e : ExcMode) (v : Word) : (s.setSpsr e v).regs = s.regs := rfl
@[simp] theorem setSpsr_pc (s : State) (e : ExcMode) (v : Word) : (s.setSpsr e v).pc = s.pc := rfl
@[simp] theorem setSpsr_cpsr (s : State) (e : ExcMode) (v : Word) : (s.setSpsr e v).cpsr = s.cpsr := rfl
@[simp] theorem setSpsr_spsr (s : State) (e : ExcMode) (v : Word) : (s.setSpsr e v).spsr = s.spsr.set e v := rfl
@[simp] theorem setSpsr_spsrDef (s : State) (e : ExcMode) (v : Word) : (s.setSpsr e v).spsrDef = s.spsrDef := rfl
@[simp] theorem setSpsr_irqPending (s : State) (e : ExcMode) (v : Word) : (s.setSpsr e v).irqPending = s.irqPending := rfl
@[simp] theorem setSpsr_fiqPending (s : State) (e : ExcMode) (v : Word) : (s.setSpsr e v).fiqPending = s.fiqPending := rfl
@[simp] theorem setSpsr_resetPending (s : State) (e : ExcMode) (v : Word) : (s.setSpsr e v).resetPending = s.resetPending := rfl
@[simp] theorem setSpsr_halted (s : State) (e : ExcMode) (v : Word) : (s.setSpsr e v).halted = s.halted := rfl
@[simp] theorem setSpsr_cycles (s : State) (e : ExcMode) (v : Word) : (s.setSpsr e v).cycles = s.cycles := rfl
@[simp] theorem setSpsr_mem (s : State) (e : ExcMode) (v : Word) : (s.setSpsr e v).mem = s.mem := rfl
@[simp] theorem setSpsr_regions (s : State) (e : ExcMode) (v : Word) : (s.setSpsr e v).regions = s.regions := rfl
@[simp] theorem setSpsr_deviceWrites (s : State) (e : ExcMode) (v : Word) : (s.setSpsr e v).deviceWrites = s.deviceWrites := rfl
@[simp] theorem setSpsr_copAnswers (s : State) (e : ExcMode) (v : Word) : (s.setSpsr e v).copAnswers = s.copAnswers := rfl
@[simp] theorem setSpsr_copRequests (s : State) (e : ExcMode) (v : Word) : (s.setSpsr e v).copRequests = s.copRequests := rfl
@[simp] theorem setSpsr_params (s : State) (e : ExcMode) (v : Word) : (s.setSpsr e v).params = s.params := rfl
@[simp] theorem setSpsr_draws (s : State) (e : ExcMode) (v : Word) : (s.setSpsr e v).draws = s.draws := rfl

@[simp] theorem defineSpsr_regs (s : State) (e : ExcMode) : (s.defineSpsr e).regs = s.regs := rfl
@[simp] theorem defineSpsr_pc (s : State) (e : ExcMode) : (s.defineSpsr e).pc = s.pc := rfl
@[simp] theorem defineSpsr_cpsr (s : State) (e : ExcMode) : (s.defineSpsr e).cpsr = s.cpsr := rfl
@[simp] theorem defineSpsr_spsr (s : State) (e : ExcMode) : (s.defineSpsr e).spsr = s.spsr := rfl
@[simp] theorem defineSpsr_spsrDef (s : State) (e : ExcMode) : (s.defineSpsr e).spsrDef = s.spsrDef.set e true := rfl
@[simp] theorem defineSpsr_irqPending (s : State) (e : ExcMode) : (s.defineSpsr e).irqPending = s.irqPending := rfl
@[simp] theorem defineSpsr_fiqPending (s : State) (e : ExcMode) : (s.defineSpsr e).fiqPending = s.fiqPending := rfl
@[simp] theorem defineSpsr_resetPending (s : State) (e : ExcMode) : (s.defineSpsr e).resetPending = s.resetPending := rfl
@[simp] theorem defineSpsr_halted (s : State) (e : ExcMode) : (s.defineSpsr e).halted = s.halted := rfl
@[simp] theorem defineSpsr_cycles (s : State) (e : ExcMode) : (s.defineSpsr e).cycles = s.cycles := rfl
@[simp] theorem defineSpsr_mem (s : State) (e : ExcMode) : (s.defineSpsr e).mem = s.mem := rfl
@[simp] theorem defineSpsr_regions (s : State) (e : ExcMode) : (s.defineSpsr e).regions = s.regions := rfl
@[simp] theorem defineSpsr_deviceWrites (s : State) (e : ExcMode) : (s.defineSpsr e).deviceWrites = s.deviceWrites := rfl
@[simp] theorem defineSpsr_copAnswers (s : State) (e : ExcMode) : (s.defineSpsr e).copAnswers = s.copAnswers := rfl
@[simp] theorem defineSpsr_copRequests (s : State) (e : ExcMode) : (s.defineSpsr e).copRequests = s.copRequests := rfl
@[simp] theorem defineSpsr_params (s : State) (e : ExcMode) : (s.defineSpsr e).params = s.params := rfl
@[simp] theorem defineSpsr_draws (s : State) (e : ExcMode) : (s.defineSpsr e).draws = s.draws := rfl

@[simp] theorem advance_regs (s : State) : (s.advance).regs = s.regs := rfl
@[simp] theorem advance_pc (s : State) : (s.advance).pc = s.pc + s.isz := rfl
@[simp] theorem advance_cpsr (s : State) : (s.advance).cpsr = s.cpsr := rfl
@[simp] theorem advance_spsr (s : State) : (s.advance).spsr = s.spsr := rfl
@[simp] theorem advance_spsrDef (s : State) : (s.advance).spsrDef = s.spsrDef := rfl
@[simp] theorem advance_irqPending (s : State) : (s.advance).irqPending = s.irqPending := rfl
@[simp] theorem advance_fiqPending (s : State) : (s.advance).fiqPending = s.fiqPending := rfl
@[simp] theorem advance_resetPending (s : State) : (s.advance).resetPending = s.resetPending := rfl
@[simp] theorem advance_halted (s : State) : (s.advance).halted = s.halted := rfl
@[simp] theorem advance_cycles (s : State) : (s.advance).cycles = s.cycles := rfl
@[simp] theorem advance_mem (s : State) : (s.advance).mem = s.mem := rfl
@[simp] theorem advance_regions (s : State) : (s.advance).regions = s.regions := rfl
@[simp] theorem advance_deviceWrites (s : State) : (s.advance).deviceWrites = s.deviceWrites := rfl
@[simp] theorem advance_copAnswers (s : State) : (s.advance).copAnswers = s.copAnswers := rfl
@[simp] theorem advance_copRequests (s : State) : (s.advance).copRequests = s.copRequests := rfl
@[simp] theorem advance_params (s : State) : (s.advance).params = s.params := rfl
@[simp] theorem advance_draws (s : State) : (s.advance).draws = s.draws := rfl

@[simp] theorem branchWritePC_regs (s : State) (v : Word) : (s.branchWritePC v).regs = s.regs := rfl
@[simp] theorem branchWritePC_pc (s : State) (v : Word) : (s.branchWritePC v).pc = if psrT s.cpsr then v &&& 0xFFFFFFFE#32 else v &&& 0xFFFFFFFC#32 := rfl
@[simp] theorem branchWritePC_cpsr (s : State) (v : Word) : (s.branchWritePC v).cpsr = s.cpsr := rfl
@[simp] theorem branchWritePC_spsr (s : State) (v : Word) : (s.branchWritePC v).spsr = s.spsr := rfl
@[simp] theorem branchWritePC_spsrDef (s : State) (v : Word) : (s.branchWritePC v).spsrDef = s.spsrDef := rfl
@[simp] theorem branchWritePC_irqPending (s : State) (v : Word) : (s.branchWritePC v).irqPending = s.irqPending := rfl
@[simp] theorem branchWritePC_fiqPending (s : State) (v : Word) : (s.branchWritePC v).fiqPending = s.fiqPending := rfl
@[simp] theorem branchWritePC_resetPending (s : State) (v : Word) : (s.branchWritePC v).resetPending = s.resetPending := rfl
@[simp] theorem branchWritePC_halted (s : State) (v : Word) : (s.branchWritePC v).halted = s.halted := rfl
@[simp] theorem branchWritePC_cycles (s : State) (v : Word) : (s.branchWritePC v).cycles = s.cycles := rfl
@[simp] theorem branchWritePC_mem (s : State) (v : Word) : (s.branchWritePC v).mem = s.mem := rfl
@[simp] theorem branchWritePC_regions (s : State) (v : Word) : (s.branchWritePC v).regions = s.regions := rfl
@[simp] theorem branchWritePC_deviceWrites (s : State) (v : Word) : (s.branchWritePC v).deviceWrites = s.deviceWrites := rfl
@[simp] theorem branchWritePC_copAnswers (s : State) (v : Word) : (s.branchWritePC v).copAnswers = s.copAnswers := rfl
@[simp] theorem branchWritePC_copRequests (s : State) (v : Word) : (s.branchWritePC v).copRequests = s.copRequests := rfl
@[simp] theorem branchWritePC_params (s : State) (v : Word) : (s.branchWritePC v).params = s.params := rfl
@[simp] theorem branchWritePC_draws (s : State) (v : Word) : (s.branchWritePC v).draws = s.draws := rfl

@[simp] theorem copAsk_regs (s : State) (q : CopRequest) : (s.copAsk q).regs = s.regs := rfl
@[simp] theorem copAsk_pc (s : State) (q : CopRequest) : (s.copAsk q).pc = s.pc := rfl
@[simp] theorem copAsk_cpsr (s : State) (q : CopRequest) : (s.copAsk q).cpsr = s.cpsr := rfl
@[simp] theorem copAsk_spsr (s : State) (q : CopRequest) : (s.copAsk q).spsr = s.spsr := rfl
@[simp] theorem copAsk_spsrDef (s : State) (q : CopRequest) : (s.copAsk q).spsrDef = s.spsrDef := rfl
@[simp] theorem copAsk_irqPending (s : State) (q : CopRequest) : (s.copAsk q).irqPending = s.irqPending := rfl
@[simp] theorem copAsk_fiqPending (s : State) (q : CopRequest) : (s.copAsk q).fiqPending = s.fiqPending := rfl
@[simp] theorem copAsk_resetPending (s : State) (q : CopRequest) : (s.copAsk q).resetPending = s.resetPending := rfl
@[simp] theorem copAsk_halted (s : State) (q : CopRequest) : (s.copAsk q).halted = s.halted := rfl
@[simp] theorem copAsk_cycles (s : State) (q : CopRequest) : (s.copAsk q).cycles = s.cycles := rfl
@[simp] theorem copAsk_mem (s : State) (q : CopRequest) : (s.copAsk q).mem = s.mem := rfl
@[simp] theorem copAsk_regions (s : State) (q : CopRequest) : (s.copAsk q).regions = s.regions := rfl
@[simp] theorem copAsk_deviceWrites (s : State) (q : CopRequest) : (s.copAsk q).deviceWrites = s.deviceWrites := rfl
@[simp] theorem copAsk_copAnswers (s : State) (q : CopRequest) : (s.copAsk q).copAnswers = s.copAnswers.tail := rfl
@[simp] theorem copAsk_copRequests (s : State) (q : CopRequest) : (s.copAsk q).copRequests = q :: s.copRequests := rfl
@[simp] theorem copAsk_params (s : State) (q : CopRequest) : (s.copAsk q).params = s.params := rfl
@[simp] theorem copAsk_draws (s : State) (q : CopRequest) : (s.copAsk q).draws = s.draws := rfl

@[simp] theorem copTell_regs (s : State) (q : CopRequest) : (s.copTell q).regs = s.regs := rfl
@[simp] theorem copTell_pc (s : State) (q : CopRequest) : (s.copTell q).pc = s.pc := rfl
@[simp] theorem copTell_cpsr (s : State) (q : CopRequest) : (s.copTell q).cpsr = s.cpsr := rfl
@[simp] theorem copTell_spsr (s : State) (q : CopRequest) : (s.copTell q).spsr = s.spsr := rfl
@[simp] theorem copTell_spsrDef (s : State) (q : CopRequest) : (s.copTell q).spsrDef = s.spsrDef := rfl
@[simp] theorem copTell_irqPending (s : State) (q : CopRequest) : (s.copTell q).irqPending = s.irqPending := rfl
@[simp] theorem copTell_fiqPending (s : State) (q : CopRequest) : (s.copTell q).fiqPending = s.fiqPending := rfl
@[simp] theorem copTell_resetPending (s : State) (q : CopRequest) : (s.copTell q).resetPending = s.resetPending := rfl
@[simp] theorem copTell_halted (s : State) (q : CopRequest) : (s.copTell q).halted = s.halted := rfl
@[simp] theorem copTell_cycles (s : State) (q : CopRequest) : (s.copTell q).cycles = s.cycles := rfl
@[simp] theorem copTell_mem (s : State) (q : CopRequest) : (s.copTell q).mem = s.mem := rfl
@[simp] theorem copTell_regions (s : State) (q : CopRequest) : (s.copTell q).regions = s.regions := rfl
@[simp] theorem copTell_deviceWrites (s : State) (q : CopRequest) : (s.copTell q).deviceWrites = s.deviceWrites := rfl
@[simp] theorem copTell_copAnswers (s : State) (q : CopRequest) : (s.copTell q).copAnswers = s.copAnswers := rfl
@[simp] theorem copTell_copRequests (s : State) (q : CopRequest) : (s.copTell q).copRequests = q :: s.copRequests := rfl
@[simp] theorem copTell_params (s : State) (q : CopRequest) : (s.copTell q).params = s.params := rfl
@[simp] theorem copTell_draws (s : State) (q : CopRequest) : (s.copTell q).draws = s.draws := rfl

@[simp] theorem tick_regs (s : State) : (s.tick).regs = s.regs := rfl
@[simp] theorem tick_pc (s : State) : (s.tick).pc = s.pc := rfl
@[simp] theorem tick_cpsr (s : State) : (s.tick).cpsr = s.cpsr := rfl
@[simp] theorem tick_spsr (s : State) : (s.tick).spsr = s.spsr := rfl
@[simp] theorem tick_spsrDef (s : State) : (s.tick).spsrDef = s.spsrDef := rfl
@[simp] theorem tick_irqPending (s : State) : (s.tick).irqPending = s.irqPending := rfl
@[simp] theorem tick_fiqPending (s : State) : (s.tick).fiqPending = s.fiqPending := rfl
@[simp] theorem tick_resetPending (s : State) : (s.tick).resetPending = s.resetPending := rfl
@[simp] theorem tick_halted (s : State) : (s.tick).halted = s.halted := rfl
@[simp] theorem tick_cycles (s : State) : (s.tick).cycles = s.cycles + s.params.cycleInc := rfl
@[simp] theorem tick_mem (s : State) : (s.tick).mem = s.mem := rfl
@[simp] theorem tick_regions (s : State) : (s.tick).regions = s.regions := rfl
@[simp] theorem tick_deviceWrites (s : State) : (s.tick).deviceWrites = s.deviceWrites := rfl
@[simp] theorem tick_copAnswers (s : State) : (s.tick).copAnswers = s.copAnswers := rfl
@[simp] theorem tick_copRequests (s : State) : (s.tick).copRequests = s.copRequests := rfl
@[simp] theorem tick_params (s : State) : (s.tick).params = s.params := rfl
@[simp] theorem tick_draws (s : State) : (s.tick).draws = s.draws + 1 := rfl

@[simp] theorem raise_regs (s : State) (k : ExcKind) (a : Word) : (s.raise k a).regs = s.regs.set (.lr k.target.mode.bank) (s.returnAddress k a) := rfl
@[simp] theorem raise_pc (s : State) (k : ExcKind) (a : Word) : (s.raise k a).pc = s.params.vectorBase + k.offset := rfl
@[simp] theorem raise_cpsr (s : State) (k : ExcKind) (a : Word) : (s.raise k a).cpsr = entryPsr s.cpsr k.target.mode.bits k.forcesF := rfl
@[simp] theorem raise_spsr (s : State) (k : ExcKind) (a : Word) : (s.raise k a).spsr = s.spsr.set k.target s.cpsr := rfl
@[simp] theorem raise_spsrDef (s : State) (k : ExcKind) (a : Word) : (s.raise k a).spsrDef = s.spsrDef.set k.target true := rfl
@[simp] theorem raise_irqPending (s : State) (k : ExcKind) (a : Word) : (s.raise k a).irqPending = s.irqPending := rfl
@[simp] theorem raise_fiqPending (s : State) (k : ExcKind) (a : Word) : (s.raise k a).fiqPending = s.fiqPending := rfl
@[simp] theorem raise_resetPending (s : State) (k : ExcKind) (a : Word) : (s.raise k a).resetPending = s.resetPending := rfl
@[simp] theorem raise_halted (s : State) (k : ExcKind) (a : Word) : (s.raise k a).halted = s.halted := rfl
@[simp] theorem raise_cycles (s : State) (k : ExcKind) (a : Word) : (s.raise k a).cycles = s.cycles := rfl
@[simp] theorem raise_mem (s : State) (k : ExcKind) (a : Word) : (s.raise k a).mem = s.mem := rfl
@[simp] theorem raise_regions (s : State) (k : ExcKind) (a : Word) : (s.raise k a).regions = s.regions := rfl
@[simp] theorem raise_deviceWrites (s : State) (k : ExcKind) (a : Word) : (s.raise k a).deviceWrites = s.deviceWrites := rfl
@[simp] theorem raise_copAnswers (s : State) (k : ExcKind) (a : Word) : (s.raise k a).copAnswers = s.copAnswers := rfl
@[simp] theorem raise_copRequests (s : State) (k : ExcKind) (a : Word) : (s.raise k a).copRequests = s.copRequests := rfl
@[simp] theorem raise_params (s : State) (k : ExcKind) (a : Word) : (s.raise k a).params = s.params := rfl
@[simp] theorem raise_draws (s : State) (k : ExcKind) (a : Word) : (s.raise k a).draws = s.draws := rfl

@[simp] theorem writeReg_cpsr (s : State) (m : Mode) (r : Reg) (v : Word) : (s.writeReg m r v).cpsr = s.cpsr := by
  unfold writeReg; split <;> rfl
@[simp] theorem writeReg_spsr (s : State) (m : Mode) (r : Reg) (v : Word) : (s.writeReg m r v).spsr = s.spsr := by
  unfold writeReg; split <;> rfl
@[simp] theorem writeReg_spsrDef (s : State) (m : Mode) (r : Reg) (v : Word) : (s.writeReg m r v).spsrDef = s.spsrDef := by
  unfold writeReg; split <;> rfl
@[simp] theorem writeReg_irqPending (s : State) (m : Mode) (r : Reg) (v : Word) : (s.writeReg m r v).irqPending = s.irqPending := by
  unfold writeReg; split <;> rfl
@[simp] theorem writeReg_fiqPending (s : State) (m : Mode) (r : Reg) (v : Word) : (s.writeReg m r v).fiqPending = s.fiqPending := by
  unfold writeReg; split <;> rfl
@[simp] theorem writeReg_resetPending (s : State) (m : Mode) (r : Reg) (v : Word) : (s.writeReg m r v).resetPending = s.resetPending := by
  unfold writeReg; split <;> rfl
@[simp] theorem writeReg_halted (s : State) (m : Mode) (r : Reg) (v : Word) : (s.writeReg m r v).halted = s.halted := by
  unfold writeReg; split <;> rfl
@[simp] theorem writeReg_cycles (s : State) (m : Mode) (r : Reg) (v : Word) : (s.writeReg m r v).cycles = s.cycles := by
  unfold writeReg; split <;> rfl
@[simp] theorem writeReg_mem (s : State) (m : Mode) (r : Reg) (v : Word) : (s.writeReg m r v).mem = s.mem := by
  unfold writeReg; split <;> rfl
@[simp] theorem writeReg_regions (s : State) (m : Mode) (r : Reg) (v : Word) : (s.writeReg m r v).regions = s.regions := by
  unfold writeReg; split <;> rfl
@[simp] theorem writeReg_deviceWrites (s : State) (m : Mode) (r : Reg) (v : Word) : (s.writeReg m r v).deviceWrites = s.deviceWrites := by
  unfold writeReg; split <;> rfl
@[simp] theorem writeReg_copAnswers (s : State) (m : Mode) (r : Reg) (v : Word) : (s.writeReg m r v).copAnswers = s.copAnswers := by
  unfold writeReg; split <;> rfl
@[simp] theorem writeReg_copRequests (s : State) (m : Mode) (r : Reg) (v : Word) : (s.writeReg m r v).copRequests = s.copRequests := by
  unfold writeReg; split <;> rfl
@[simp] theorem writeReg_params (s : State) (m : Mode) (r : Reg) (v : Word) : (s.writeReg m r v).params = s.params := by
  unfold writeReg; split <;> rfl
@[simp] theorem writeReg_draws (s : State) (m : Mode) (r : Reg) (v : Word) : (s.writeReg m r v).draws = s.draws := by
  unfold writeReg; split <;> rfl

@[simp] theorem writeDest_cpsr (s : State) (m : Mode) (r : Reg) (v : Word) : (s.writeDest m r v).cpsr = s.cpsr := by
  unfold writeDest; split <;> simp
@[simp] theorem writeDest_spsr (s : State) (m : Mode) (r : Reg) (v : Word) : (s.writeDest m r v).spsr = s.spsr := by
  unfold writeDest; split <;> simp
@[simp] theorem writeDest_spsrDef (s : State) (m : Mode) (r : Reg) (v : Word) : (s.writeDest m r v).spsrDef = s.spsrDef := by
  unfold writeDest; split <;> simp
@[simp] theorem writeDest_irqPending (s : State) (m : Mode) (r : Reg) (v : Word) : (s.writeDest m r v).irqPending = s.irqPending := by
  unfold writeDest; split <;> simp
@[simp] theorem writeDest_fiqPending (s : State) (m : Mode) (r : Reg) (v : Word) : (s.writeDest m r v).fiqPending = s.fiqPending := by
  unfold writeDest; split <;> simp
@[simp] theorem writeDest_resetPending (s : State) (m : Mode) (r : Reg) (v : Word) : (s.writeDest m r v).resetPending = s.resetPending := by
  unfold writeDest; split <;> simp
@[simp] theorem writeDest_halted (s : State) (m : Mode) (r : Reg) (v : Word) : (s.writeDest m r v).halted = s.halted := by
  unfold writeDest; split <;> simp
@[simp] theorem writeDest_cycles (s : State) (m : Mode) (r : Reg) (v : Word) : (s.writeDest m r v).cycles = s.cycles := by
  unfold writeDest; split <;> simp
@[simp] theorem writeDest_mem (s : State) (m : Mode) (r : Reg) (v : Word) : (s.writeDest m r v).mem = s.mem := by
  unfold writeDest; split <;> simp
@[simp] theorem writeDest_regions (s : State) (m : Mode) (r : Reg) (v : Word) : (s.writeDest m r v).regions = s.regions := by
  unfold writeDest; split <;> simp
@[simp] theorem writeDest_deviceWrites (s : State) (m : Mode) (r : Reg) (v : Word) : (s.writeDest m r v).deviceWrites = s.deviceWrites := by
  unfold writeDest; split <;> simp
@[simp] theorem writeDest_copAnswers (s : State) (m : Mode) (r : Reg) (v : Word) : (s.writeDest m r v).copAnswers = s.copAnswers := by
  unfold writeDest; split <;> simp
@[simp] theorem writeDest_copRequests (s : State) (m : Mode) (r : Reg) (v : Word) : (s.writeDest m r v).copRequests = s.copRequests := by
  unfold writeDest; split <;> simp
@[simp] theorem writeDest_params (s : State) (m : Mode) (r : Reg) (v : Word) : (s.writeDest m r v).params = s.params := by
  unfold writeDest; split <;> simp
@[simp] theorem writeDest_draws (s : State) (m : Mode) (r : Reg) (v : Word) : (s.writeDest m r v).draws = s.draws := by
  unfold writeDest; split <;> simp

@[simp] theorem writeRegs_pc (m : Mode) (l : List (Reg × Word)) :
    ∀ s : State, (s.writeRegs m l).pc = s.pc := by
  induction l with
  | nil => intro s; rfl
  | cons x rest ih => intro s; unfold writeRegs; split <;> simp [ih]
@[simp] theorem writeRegs_cpsr (m : Mode) (l : List (Reg × Word)) :
    ∀ s : State, (s.writeRegs m l).cpsr = s.cpsr := by
  induction l with
  | nil => intro s; rfl
  | cons x rest ih => intro s; unfold writeRegs; split <;> simp [ih]
@[simp] theorem writeRegs_spsr (m : Mode) (l : List (Reg × Word)) :
    ∀ s : State, (s.writeRegs m l).spsr = s.spsr := by
  induction l with
  | nil => intro s; rfl
  | cons x rest ih => intro s; unfold writeRegs; split <;> simp [ih]
@[simp] theorem writeRegs_spsrDef (m : Mode) (l : List (Reg × Word)) :
    ∀ s : State, (s.writeRegs m l).spsrDef = s.spsrDef := by
  induction l with
  | nil => intro s; rfl
  | cons x rest ih => intro s; unfold writeRegs; split <;> simp [ih]
@[simp] theorem writeRegs_irqPending (m : Mode) (l : List (Reg × Word)) :
    ∀ s : State, (s.writeRegs m l).irqPending = s.irqPending := by
  induction l with
  | nil => intro s; rfl
  | cons x rest ih => intro s; unfold writeRegs; split <;> simp [ih]
@[simp] theorem writeRegs_fiqPending (m : Mode) (l : List (Reg × Word)) :
    ∀ s : State, (s.writeRegs m l).fiqPending = s.fiqPending := by
  induction l with
  | nil => intro s; rfl
  | cons x rest ih => intro s; unfold writeRegs; split <;> simp [ih]
@[simp] theorem writeRegs_resetPending (m : Mode) (l : List (Reg × Word)) :
    ∀ s : State, (s.writeRegs m l).resetPending = s.resetPending := by
  induction l with
  | nil => intro s; rfl
  | cons x rest ih => intro s; unfold writeRegs; split <;> simp [ih]
@[simp] theorem writeRegs_halted (m : Mode) (l : List (Reg × Word)) :
    ∀ s : State, (s.writeRegs m l).halted = s.halted := by
  induction l with
  | nil => intro s; rfl
  | cons x rest ih => intro s; unfold writeRegs; split <;> simp [ih]
@[simp] theorem writeRegs_cycles (m : Mode) (l : List (Reg × Word)) :
    ∀ s : State, (s.writeRegs m l).cycles = s.cycles := by
  induction l with
  | nil => intro s; rfl
  | cons x rest ih => intro s; unfold writeRegs; split <;> simp [ih]
@[simp] theorem writeRegs_mem (m : Mode) (l : List (Reg × Word)) :
    ∀ s : State, (s.writeRegs m l).mem = s.mem := by
  induction l with
  | nil => intro s; rfl
  | cons x rest ih => intro s; unfold writeRegs; split <;> simp [ih]
@[simp] theorem writeRegs_regions (m : Mode) (l : List (Reg × Word)) :
    ∀ s : State, (s.writeRegs m l).regions = s.regions := by
  induction l with
  | nil => intro s; rfl
  | cons x rest ih => intro s; unfold writeRegs; split <;> simp [ih]
@[simp] theorem writeRegs_deviceWrites (m : Mode) (l : List (Reg × Word)) :
    ∀ s : State, (s.writeRegs m l).deviceWrites = s.deviceWrites := by
  induction l with
  | nil => intro s; rfl
  | cons x rest ih => intro s; unfold writeRegs; split <;> simp [ih]
@[simp] theorem writeRegs_copAnswers (m : Mode) (l : List (Reg × Word)) :
    ∀ s : State, (s.writeRegs m l).copAnswers = s.copAnswers := by
  induction l with
  | nil => intro s; rfl
  | cons x rest ih => intro s; unfold writeRegs; split <;> simp [ih]
@[simp] theorem writeRegs_copRequests (m : Mode) (l : List (Reg × Word)) :
    ∀ s : State, (s.writeRegs m l).copRequests = s.copRequests := by
  induction l with
  | nil => intro s; rfl
  | cons x rest ih => intro s; unfold writeRegs; split <;> simp [ih]
@[simp] theorem writeRegs_params (m : Mode) (l : List (Reg × Word)) :
    ∀ s : State, (s.writeRegs m l).params = s.params := by
  induction l with
  | nil => intro s; rfl
  | cons x rest ih => intro s; unfold writeRegs; split <;> simp [ih]
@[simp] theorem writeRegs_draws (m : Mode) (l : List (Reg × Word)) :
    ∀ s : State, (s.writeRegs m l).draws = s.draws := by
  induction l with
  | nil => intro s; rfl
  | cons x rest ih => intro s; unfold writeRegs; split <;> simp [ih]

end Sys2Proof.Machine.State
end

