-- ==== Sys2Proof/Laws/Memory.lean ====
section
/-! SUPPORT. The laws of storage: the canonical form is kept, a byte reads as last written, equal reads are equal memories,
words and halfwords are their bytes. -/
namespace Sys2Proof.Machine
namespace Memory

theorem wfFrom_mono {lo lo' : Nat} (h : lo' ≤ lo) {mem : Memory} (hw : wfFrom lo mem = true) : wfFrom lo' mem = true := by
  cases mem with
  | nil => rfl
  | cons c rest =>
    simp only [wfFrom, Bool.and_eq_true, decide_eq_true_eq] at hw ⊢
    exact ⟨⟨⟨by omega, hw.1.1.2⟩, hw.1.2⟩, hw.2⟩

theorem read_of_lt {lo : Nat} : ∀ {mem : Memory}, wfFrom lo mem = true → ∀ {n}, n < lo → mem.read n = Config.unlistedByte := by
  intro mem
  induction mem generalizing lo with
  | nil => intros; rfl
  | cons c rest ih =>
    intro hw n hn
    obtain ⟨a, b⟩ := c
    simp only [wfFrom, Bool.and_eq_true, decide_eq_true_eq] at hw
    have : n ≠ a := by omega
    simp only [read, this, if_false]
    exact ih hw.2 (by omega)

theorem write_spec (n : Nat) (v : Byte) (hn : n < 2 ^ 32) : ∀ (mem : Memory) (lo : Nat), lo ≤ n → wfFrom lo mem = true →
    wfFrom lo (mem.write n v) = true ∧ ∀ k, (mem.write n v).read k = if k = n then v else mem.read k := by
  intro mem
  induction mem with
  | nil =>
    intro lo hlo _
    by_cases hv : v = Config.unlistedByte
    · simp [write, hv, wfFrom, read]
    · simp [write, hv, wfFrom, read]; omega
  | cons c rest ih =>
    intro lo hlo hw
    obtain ⟨a, b⟩ := c
    have hw0 := hw
    simp only [wfFrom, Bool.and_eq_true, decide_eq_true_eq] at hw
    obtain ⟨⟨⟨h1, h2⟩, h3⟩, h4⟩ := hw
    by_cases hna : n < a
    · by_cases hv : v = Config.unlistedByte
      · simp only [write, hna, hv, if_true]
        refine ⟨hw0, fun k => ?_⟩
        split
        · subst_vars
          simp only [read]
          rw [if_neg (by omega), read_of_lt h4 (by omega)]
        · rfl
      · simp only [write, hna, hv, if_true, if_false]
        refine ⟨?_, fun k => ?_⟩
        · simp only [wfFrom, Bool.and_eq_true, decide_eq_true_eq]
          exact ⟨⟨⟨hlo, hn⟩, hv⟩, ⟨⟨⟨by omega, h2⟩, h3⟩, h4⟩⟩
        · simp [read]
    · by_cases hea : n = a
      · subst hea
        by_cases hv : v = Config.unlistedByte
        · simp only [write, hna, hv, if_true, if_false]
          refine ⟨wfFrom_mono (by omega) h4, fun k => ?_⟩
          split
          · subst_vars; exact read_of_lt h4 (by omega)
          · rename_i hk; simp [read, hk]
        · simp only [write, hna, hv, if_true, if_false]
          refine ⟨?_, fun k => ?_⟩
          · simp only [wfFrom, Bool.and_eq_true, decide_eq_true_eq]
            exact ⟨⟨⟨hlo, hn⟩, hv⟩, h4⟩
          · simp only [read]; split <;> simp_all
      · simp only [write, hna, hea, if_false]
        obtain ⟨g1, g2⟩ := ih (a + 1) (by omega) h4
        refine ⟨?_, fun k => ?_⟩
        · simp only [wfFrom, Bool.and_eq_true, decide_eq_true_eq]
          exact ⟨⟨⟨h1, h2⟩, h3⟩, g1⟩
        · simp only [read, g2]
          split
          · rename_i hk; subst hk; rw [if_neg (by omega)]
          · rfl

theorem wf_write {mem : Memory} (hw : mem.wf = true) {n : Nat} (hn : n < 2 ^ 32) (v : Byte) : (mem.write n v).wf = true :=
  (write_spec n v hn mem 0 (by omega) hw).1

theorem read_write {mem : Memory} (hw : mem.wf = true) {n : Nat} (hn : n < 2 ^ 32) (v : Byte) (k : Nat) :
    (mem.write n v).read k = if k = n then v else mem.read k :=
  (write_spec n v hn mem 0 (by omega) hw).2 k

theorem wf_writeBytes (bs : List Byte) : ∀ (mem : Memory) (a : Word), mem.wf = true → (mem.writeBytes a bs).wf = true := by
  induction bs with
  | nil => intro mem a h; exact h
  | cons b bs ih => intro mem a h; exact ih _ _ (wf_write h a.isLt b)

/-- Bytes written from `a` on without passing the top of the address space: the k-th of them at a + k, the rest unchanged. -/
theorem read_writeBytes (bs : List Byte) : ∀ (mem : Memory) (a : Word), mem.wf = true → a.toNat + bs.length ≤ 2 ^ 32 →
    ∀ n, (mem.writeBytes a bs).read n =
      if a.toNat ≤ n ∧ n < a.toNat + bs.length then bs.getD (n - a.toNat) 0#8 else mem.read n := by
  induction bs with
  | nil =>
    intro mem a _ _ n
    simp only [writeBytes, List.length_nil]
    rw [if_neg (by omega)]
  | cons b bs ih =>
    intro mem a hw hl n
    simp only [List.length_cons] at hl
    simp only [writeBytes, List.length_cons]
    by_cases hb : bs = []
    · subst hb
      simp only [writeBytes, List.length_nil, read_write hw a.isLt]
      by_cases hn : n = a.toNat
      · subst hn; simp
      · rw [if_neg hn, if_neg (by omega)]
    · have hpos : 0 < bs.length := List.length_pos_iff.2 hb
      have ha : (a + 1#32).toNat = a.toNat + 1 := by
        rw [BitVec.toNat_add]; simp; omega
      rw [ih _ _ (wf_write hw a.isLt b) (by omega), ha, read_write hw a.isLt]
      by_cases h1 : a.toNat + 1 ≤ n ∧ n < a.toNat + 1 + bs.length
      · rw [if_pos h1, if_pos (by omega)]
        have : n - a.toNat = (n - (a.toNat + 1)) + 1 := by omega
        rw [this, List.getD_cons_succ]
      · rw [if_neg h1]
        by_cases h2 : n = a.toNat
        · subst h2; simp
        · rw [if_neg h2, if_neg (by omega)]

/-- Equal reads are equal memories: the canonical form is one. -/
theorem ext_of_read : ∀ (mem mem' : Memory) (lo : Nat), wfFrom lo mem = true → wfFrom lo mem' = true →
    (∀ n, mem.read n = mem'.read n) → mem = mem' := by
  intro mem
  induction mem with
  | nil =>
    intro mem' lo _ hw' h
    cases mem' with
    | nil => rfl
    | cons c rest =>
      obtain ⟨a, b⟩ := c
      simp only [wfFrom, Bool.and_eq_true, decide_eq_true_eq, ne_eq, decide_not, Bool.not_eq_true', decide_eq_false_iff_not] at hw'
      have := h a
      simp [read] at this
      exact absurd this.symm hw'.1.2
  | cons c rest ih =>
    intro mem' lo hw hw' h
    obtain ⟨a, b⟩ := c
    simp only [wfFrom, Bool.and_eq_true, decide_eq_true_eq, ne_eq, decide_not, Bool.not_eq_true', decide_eq_false_iff_not] at hw
    cases mem' with
    | nil =>
      have := h a
      simp [read] at this
      exact absurd this hw.1.2
    | cons c' rest' =>
      obtain ⟨a', b'⟩ := c'
      simp only [wfFrom, Bool.and_eq_true, decide_eq_true_eq, ne_eq, decide_not, Bool.not_eq_true', decide_eq_false_iff_not] at hw'
      have e : a = a' := by
        rcases Nat.lt_trichotomy a a' with hl | he | hl
        · have h1 := h a
          simp only [read, if_true, if_neg (show ¬ a = a' by omega)] at h1
          rw [read_of_lt hw'.2 (by omega)] at h1
          exact absurd h1 hw.1.2
        · exact he
        · have h1 := h a'
          simp only [read, if_true, if_neg (show ¬ a' = a by omega)] at h1
          rw [read_of_lt hw.2 (by omega)] at h1
          exact absurd h1.symm hw'.1.2
      subst e
      have eb : b = b' := by simpa [read] using h a
      subst eb
      have : rest = rest' := by
        apply ih rest' (a + 1) hw.2 hw'.2
        intro n
        by_cases hn : n = a
        · subst hn; rw [read_of_lt hw.2 (by omega), read_of_lt hw'.2 (by omega)]
        · simpa [read, hn] using h n
      rw [this]

end Memory

/-! ### What a write through the Memory Interface can do -/

theorem State.memWrite_some {s t : State} {a : Word} {bs : List Byte} (h : s.memWrite a bs = some t) :
    s.accepts a = true ∧
      ((s.isDevice a = false ∧ t = { s with mem := s.mem.writeBytes a bs }) ∨
        (s.isDevice a = true ∧ t = { s with deviceWrites := ⟨a, bs⟩ :: s.deviceWrites })) := by
  unfold State.memWrite at h
  cases hd : s.isDevice a <;> cases ha : s.accepts a <;> simp_all

theorem State.memWrite_none {s : State} {a : Word} {bs : List Byte} :
    s.memWrite a bs = none ↔ s.accepts a = false := by
  unfold State.memWrite
  split <;> simp_all

/-- A write that storage takes. -/
theorem State.memWrite_storage {s : State} {a : Word} (bs : List Byte) (h : s.accepts a = true) (hd : s.isDevice a = false) :
    s.memWrite a bs = some { s with mem := s.mem.writeBytes a bs } := by
  simp [State.memWrite, h, hd]

/-- A write that a device records. -/
theorem State.memWrite_device {s : State} {a : Word} (bs : List Byte) (h : s.accepts a = true) (hd : s.isDevice a = true) :
    s.memWrite a bs = some { s with deviceWrites := ⟨a, bs⟩ :: s.deviceWrites } := by
  simp [State.memWrite, h, hd]

theorem State.memRead_none {w : Nat} {s : State} {fetch : Bool} {a : Word} {b : BitVec w} :
    s.memRead fetch a b = none ↔ s.answers fetch a = false := by
  unfold State.memRead
  split <;> simp_all

/-- A read that storage answers. -/
theorem State.memRead_storage {w : Nat} {s : State} {fetch : Bool} {a : Word} (b : BitVec w)
    (h : s.answers fetch a = true) (hd : s.isDevice a = false) : s.memRead fetch a b = some b := by
  simp [State.memRead, h, hd]

theorem State.memReadWord_none {s : State} {fetch : Bool} {a : Word} :
    s.memReadWord fetch a = none ↔ s.answers fetch a = false := State.memRead_none

theorem State.memReadHalf_none {s : State} {fetch : Bool} {a : Word} :
    s.memReadHalf fetch a = none ↔ s.answers fetch a = false := State.memRead_none

theorem State.memReadByte_none {s : State} {a : Word} : s.memReadByte a = none ↔ s.answers false a = false :=
  State.memRead_none

/-- `t` is `s` with another record of device writes and another storage, in canonical form if that of `s` is: all that data
accesses do. -/
def OnlyMem (s t : State) : Prop :=
  t = { s with mem := t.mem, deviceWrites := t.deviceWrites } ∧ (s.mem.wf = true → t.mem.wf = true)

theorem OnlyMem.refl (s : State) : OnlyMem s s := ⟨rfl, id⟩

theorem OnlyMem.trans {s t u : State} (h : OnlyMem s t) (g : OnlyMem t u) : OnlyMem s u := by
  obtain ⟨h1, h2⟩ := h
  obtain ⟨g1, g2⟩ := g
  refine ⟨?_, fun x => g2 (h2 x)⟩
  rw [g1, h1]

theorem State.memWrite_onlyMem {s t : State} {a : Word} {bs : List Byte} (h : s.memWrite a bs = some t) : OnlyMem s t := by
  rcases State.memWrite_some h with ⟨-, ⟨-, rfl⟩ | ⟨-, rfl⟩⟩
  · exact ⟨rfl, Memory.wf_writeBytes bs _ _⟩
  · exact ⟨rfl, id⟩

theorem State.writeWords_onlyMem (l : List (Word × Word)) : ∀ s : State, OnlyMem s (s.writeWords l).1 := by
  induction l with
  | nil => intro s; exact OnlyMem.refl s
  | cons x rest ih =>
    intro s
    obtain ⟨a, v⟩ := x
    unfold State.writeWords
    split
    · exact OnlyMem.refl s
    · rename_i t ht
      exact (State.memWrite_onlyMem ht).trans (ih t)

end Sys2Proof.Machine
end

