-- ==== Sys2Proof/Laws/Registers.lean ====
section
/-! SUPPORT. The laws of the register file: read after write, bank resolution, writes by logical number. -/
namespace Sys2Proof.Machine

@[simp] theorem Banked.get_set {α : Type} (b : Banked α) (i j : Bank) (v : α) :
    (b.set i v).get j = if j = i then v else b.get j := by
  cases i <;> cases j <;> simp [Banked.set, Banked.get]

@[simp] theorem Saved.get_set {α : Type} (b : Saved α) (i j : ExcMode) (v : α) :
    (b.set i v).get j = if j = i then v else b.get j := by
  cases i <;> cases j <;> simp [Saved.set, Saved.get]

@[simp] theorem Regs.get_set (g : Regs) (p q : PhysReg) (v : Word) :
    (g.set p v).get q = if q = p then v else g.get q := by
  cases p <;> cases q <;> simp [Regs.set, Regs.get]
  all_goals
    rename_i i j
    by_cases h : j = i
    · subst h; simp
    · simp [h, Fin.val_ne_of_ne (Ne.symm h)]

@[simp] theorem State.getPhys_setPhys (s : State) (p q : PhysReg) (v : Word) :
    (s.setPhys p v).getPhys q = if q = p then v else s.getPhys q := by
  simp [State.getPhys]

@[simp] theorem State.getPhys_setPc (s : State) (v : Word) (p : PhysReg) : (s.setPc v).getPhys p = s.getPhys p := rfl
@[simp] theorem State.getPhys_setCpsr (s : State) (v : Word) (p : PhysReg) : (s.setCpsr v).getPhys p = s.getPhys p := rfl
@[simp] theorem State.getPhys_advance (s : State) (p : PhysReg) : s.advance.getPhys p = s.getPhys p := rfl
@[simp] theorem State.getPhys_branchWritePC (s : State) (v : Word) (p : PhysReg) :
    (s.branchWritePC v).getPhys p = s.getPhys p := rfl
@[simp] theorem State.getPhys_copAsk (s : State) (q : CopRequest) (p : PhysReg) :
    (s.copAsk q).getPhys p = s.getPhys p := rfl
@[simp] theorem State.getPhys_copTell (s : State) (q : CopRequest) (p : PhysReg) :
    (s.copTell q).getPhys p = s.getPhys p := rfl

@[simp] theorem State.isz_setPc (s : State) (v : Word) : (s.setPc v).isz = s.isz := rfl
@[simp] theorem State.isz_setPhys (s : State) (p : PhysReg) (v : Word) : (s.setPhys p v).isz = s.isz := rfl
@[simp] theorem State.isz_copAsk (s : State) (q : CopRequest) : (s.copAsk q).isz = s.isz := rfl
@[simp] theorem State.isz_copTell (s : State) (q : CopRequest) : (s.copTell q).isz = s.isz := rfl

theorem phys_eq_none_iff (m : Mode) (r : Reg) : phys m r = none ↔ r = Reg.pc := by
  revert m r
  intro m
  cases m <;> decide

@[simp] theorem phys_pc (m : Mode) : phys m Reg.pc = none := (phys_eq_none_iff m _).2 rfl

theorem phys_isSome (m : Mode) {r : Reg} (h : r ≠ Reg.pc) : ∃ p, phys m r = some p := by
  cases hp : phys m r with
  | none => exact absurd ((phys_eq_none_iff m r).1 hp) h
  | some p => exact ⟨p, rfl⟩

theorem phys_ne_pc {m : Mode} {r : Reg} {p : PhysReg} (h : phys m r = some p) : r ≠ Reg.pc := by
  rintro rfl; simp at h

/-- Two logical registers of one mode that share a physical register are one register. -/
theorem phys_injective {m : Mode} {a b : Reg} {p : PhysReg} (ha : phys m a = some p) (hb : phys m b = some p) : a = b := by
  have key : ∀ a b : Reg, phys m a = phys m b → a ≠ Reg.pc → a = b := by cases m <;> decide
  exact key a b (ha.trans hb.symm) (fun h => by rw [h, phys_pc] at ha; cases ha)

theorem State.writeReg_some {s : State} {m : Mode} {r : Reg} {p : PhysReg} (v : Word) (h : phys m r = some p) :
    s.writeReg m r v = s.setPhys p v := by
  simp [State.writeReg, h]

@[simp] theorem State.writeReg_pcReg (s : State) (m : Mode) (v : Word) : s.writeReg m Reg.pc v = s.branchWritePC v := by
  simp [State.writeReg]

theorem State.writeDest_some {s : State} {m : Mode} {r : Reg} {p : PhysReg} (v : Word) (h : phys m r = some p) :
    s.writeDest m r v = (s.setPhys p v).advance := by
  simp [State.writeDest, phys_ne_pc h, State.writeReg_some v h]

@[simp] theorem State.writeDest_pcReg (s : State) (m : Mode) (v : Word) : s.writeDest m Reg.pc v = s.branchWritePC v := by
  simp [State.writeDest]

theorem State.x_some {s : State} {m : Mode} {r : Reg} {p : PhysReg} (h : phys m r = some p) : s.x m r = s.getPhys p := by
  simp [State.x, State.regOr, h]

theorem State.xLate_some {s : State} {m : Mode} {r : Reg} {p : PhysReg} (h : phys m r = some p) :
    s.xLate m r = s.getPhys p := by
  simp [State.xLate, State.regOr, h]

theorem State.xLate_eq_x {s : State} {m : Mode} {r : Reg} (h : r ≠ Reg.pc) : s.xLate m r = s.x m r := by
  obtain ⟨p, hp⟩ := phys_isSome m h
  rw [State.x_some hp, State.xLate_some hp]

theorem loReg_ne_pc (r : LowReg) : loReg r ≠ Reg.pc := by
  revert r; decide

/-- The register part of a mode's encoding. -/
@[simp] theorem Mode.ofBits_bits (m : Mode) : Mode.ofBits m.bits = some m := by cases m <;> rfl

theorem Mode.ofBits_eq_some {b : BitVec 5} {m : Mode} : Mode.ofBits b = some m ↔ b = m.bits := by
  constructor
  · intro h
    revert b m; decide
  · rintro rfl; simp

theorem Mode.saved_eq_some {m : Mode} {e : ExcMode} : m.saved = some e ↔ m = e.mode := by
  cases m <;> cases e <;> simp [Mode.saved, ExcMode.mode]

theorem Mode.saved_eq_none {m : Mode} : m.saved = none ↔ m = .usr ∨ m = .sys := by
  cases m <;> simp [Mode.saved]

theorem ExcMode.mode_injective {e e' : ExcMode} (h : e.mode = e'.mode) : e = e' := by
  cases e <;> cases e' <;> first | rfl | cases h

/-! ### Several registers -/

/-- A physical register that no pair writes keeps its value. -/
theorem State.getPhys_writeRegs_of_notMem (m : Mode) (p : PhysReg) (l : List (Reg × Word)) :
    ∀ s : State, (∀ x ∈ l, phys m x.1 ≠ some p) → (s.writeRegs m l).getPhys p = s.getPhys p := by
  induction l with
  | nil => intro s _; rfl
  | cons x rest ih =>
    intro s h
    have hr := ih
    unfold State.writeRegs
    split
    · rename_i q hq
      rw [ih _ (fun y hy => h y (List.mem_cons_of_mem _ hy))]
      have : p ≠ q := fun e => h x (List.mem_cons_self) (by rw [hq, e])
      simp [this]
    · exact ih s (fun y hy => h y (List.mem_cons_of_mem _ hy))

/-- Distinct registers: each holds the value of its pair. -/
theorem State.getPhys_writeRegs_of_mem (m : Mode) (l : List (Reg × Word)) :
    ∀ s : State, (l.map Prod.fst).Nodup → ∀ r v p, (r, v) ∈ l → phys m r = some p →
      (s.writeRegs m l).getPhys p = v := by
  induction l with
  | nil => intro s _ r v p h; cases h
  | cons x rest ih =>
    intro s hn r v p hm hp
    rw [List.map_cons, List.nodup_cons] at hn
    rcases List.mem_cons.1 hm with rfl | hm
    · unfold State.writeRegs
      simp only [hp]
      rw [State.getPhys_writeRegs_of_notMem]
      · simp
      · intro y hy e
        have := phys_injective e hp
        have hk : y.1 ∈ rest.map Prod.fst := List.mem_map_of_mem hy
        exact hn.1 (this ▸ hk)
    · unfold State.writeRegs
      split
      · exact ih _ hn.2 r v p hm hp
      · exact ih _ hn.2 r v p hm hp

end Sys2Proof.Machine
end

