-- ==== Sys2Proof/Laws/Shape.lean ====
section
/-! SUPPORT. What a meaning can do, said once: `Ends` lists what any next state of any instruction shows, and one lemma per
shared operation derives it, so that no proof about all instructions unfolds one. -/
namespace Sys2Proof.Machine

/-! ### Alignment of pc -/

theorem and_word_low (v : Word) : (v &&& 0xFFFFFFFC#32).extractLsb' 0 2 = 0b00#2 := by
  ext k hk
  have : k = 0 ∨ k = 1 := by omega
  rcases this with rfl | rfl <;> simp

theorem and_half_low (v : Word) : (v &&& 0xFFFFFFFE#32).getLsbD 0 = false := by simp

/-- A branch by BranchWritePC leaves pc aligned for the state bit (R29, R135). -/
theorem State.pcAligned_branchWritePC (s : State) (v : Word) : (s.branchWritePC v).pcAligned = true := by
  unfold State.pcAligned
  simp only [State.branchWritePC_cpsr, State.branchWritePC_pc]
  split
  · simp
  · simp [and_word_low]

theorem low_two_add (a b : Word) (h : b.extractLsb' 0 2 = 0b00#2) :
    (a + b).extractLsb' 0 2 = a.extractLsb' 0 2 := by
  have h2 : b.toNat % 4 = 0 := by
    have := congrArg BitVec.toNat h
    simpa using this
  apply BitVec.eq_of_toNat_eq
  simp [BitVec.toNat_add]
  omega

theorem State.pcAligned_iff (s : State) :
    s.pcAligned = true ↔ s.pc.toNat % (if psrT s.cpsr then 2 else 4) = 0 := by
  unfold State.pcAligned
  split
  · simp [BitVec.getLsbD, Nat.testBit_zero]
  · constructor
    · intro h
      have := congrArg BitVec.toNat (beq_iff_eq.1 h)
      simpa using this
    · intro h
      apply beq_iff_eq.2
      apply BitVec.eq_of_toNat_eq
      simpa using h

/-- Falling through keeps pc aligned (R28, R29). -/
theorem pcAligned_advance {s t : State} (ht : psrT t.cpsr = psrT s.cpsr) (hp : t.pc = s.pc + s.isz)
    (h : s.pcAligned = true) : t.pcAligned = true := by
  rw [State.pcAligned_iff] at h ⊢
  rw [ht, hp]
  unfold State.isz
  rw [BitVec.toNat_add]
  cases hT : psrT s.cpsr
  · rw [hT] at h; simp at h ⊢; omega
  · rw [hT] at h; simp at h ⊢; omega

/-! ### The shape of a next state -/

/-- Which instructions may change the state bit (BX) and the mode (MSR to CPSR) other than by an exception. -/
inductive Kind where
  | plain | bx | msr
deriving DecidableEq, Repr

/-- The kind of an instruction. -/
def Kind.of : Instr → Kind
  | .bx .. => .bx
  | .tBx .. => .bx
  | .msrR _ .cpsr _ _ => .msr
  | .msrI _ .cpsr _ _ _ => .msr
  | _ => .plain

/-- `t` is `s` but for pc, CPSR, registers, the records of requests and storage, which stays canonical. -/
structure Rest (s t : State) : Prop where
  wf           : s.mem.wf = true → t.mem.wf = true
  spsr         : t.spsr = s.spsr
  spsrDef      : t.spsrDef = s.spsrDef
  irqPending   : t.irqPending = s.irqPending
  fiqPending   : t.fiqPending = s.fiqPending
  resetPending : t.resetPending = s.resetPending
  halted       : t.halted = s.halted
  cycles       : t.cycles = s.cycles
  regions      : t.regions = s.regions
  params       : t.params = s.params
  draws        : t.draws = s.draws

/-- `u` is `s` but for registers, the records of requests and storage, which stays canonical: what the body of a meaning
does. -/
structure Body (s u : State) : Prop where
  rest : Rest s u
  cpsr : u.cpsr = s.cpsr
  pc   : u.pc = s.pc

/-- What any next state of an instruction of kind `k` shows; `th` is the state bit its instruction set has. -/
structure Ends (k : Kind) (th : Bool) (s t : State) : Prop where
  wf           : s.mem.wf = true → t.mem.wf = true
  irqPending   : t.irqPending = s.irqPending
  fiqPending   : t.fiqPending = s.fiqPending
  resetPending : t.resetPending = s.resetPending
  halted       : t.halted = s.halted
  cycles       : t.cycles = s.cycles
  regions      : t.regions = s.regions
  params       : t.params = s.params
  draws        : t.draws = s.draws
  spsrDef      : ∀ e, s.spsrDef.get e = true → t.spsrDef.get e = true
  spsr         : ∀ e, psrReserved (t.spsr.get e) = psrReserved (s.spsr.get e) ∨ t.spsr.get e = s.cpsr
  mode         : t.mode?.isSome = true
  pc           : s.params.vectorBase.extractLsb' 0 2 = 0b00#2 → psrT s.cpsr = th → s.pcAligned = true → t.pcAligned = true
  cpsr         :
    (∃ e, s.mode? = some e.mode ∧ s.spsrDef.get e = true ∧ t.cpsr = s.spsr.get e) ∨
    (∃ x : ExcKind, (x = .undefinedInstruction ∨ x = .softwareInterrupt ∨ x = .dataAbort) ∧
      t.pc = s.params.vectorBase + x.offset ∧ t.spsr.get x.target = s.cpsr ∧ t.spsrDef.get x.target = true ∧
      psrT t.cpsr = false ∧ psrM t.cpsr = x.target.mode.bits ∧ psrReserved t.cpsr = psrReserved s.cpsr ∧
      psrQ t.cpsr = psrQ s.cpsr) ∨
    (psrReserved t.cpsr = psrReserved s.cpsr ∧ (psrQ t.cpsr = psrQ s.cpsr ∨ k = .msr) ∧
      (psrT t.cpsr = psrT s.cpsr ∨ k = .bx) ∧ (psrM t.cpsr = psrM s.cpsr ∨ k = .msr))

/-- A result is a next state of that shape or a violation: never a refusal. -/
def Good (k : Kind) (th : Bool) (s : State) : Result → Prop
  | .next t => Ends k th s t
  | .fault (.violation _) => True
  | .fault (.halted _) => False
  | .refused _ => False

theorem Rest.refl (s : State) : Rest s s := ⟨id, rfl, rfl, rfl, rfl, rfl, rfl, rfl, rfl, rfl, rfl⟩

theorem Rest.trans {s u v : State} (h : Rest s u) (g : Rest u v) : Rest s v where
  wf x := g.wf (h.wf x)
  spsr := g.spsr.trans h.spsr
  spsrDef := g.spsrDef.trans h.spsrDef
  irqPending := g.irqPending.trans h.irqPending
  fiqPending := g.fiqPending.trans h.fiqPending
  resetPending := g.resetPending.trans h.resetPending
  halted := g.halted.trans h.halted
  cycles := g.cycles.trans h.cycles
  regions := g.regions.trans h.regions
  params := g.params.trans h.params
  draws := g.draws.trans h.draws

theorem Body.refl (s : State) : Body s s := ⟨Rest.refl s, rfl, rfl⟩

theorem Body.trans {s u v : State} (h : Body s u) (g : Body u v) : Body s v :=
  ⟨h.rest.trans g.rest, g.cpsr.trans h.cpsr, g.pc.trans h.pc⟩

theorem Body.setPhys (s : State) (p : PhysReg) (v : Word) : Body s (s.setPhys p v) :=
  ⟨⟨id, rfl, rfl, rfl, rfl, rfl, rfl, rfl, rfl, rfl, rfl⟩, rfl, rfl⟩

theorem Body.copAsk (s : State) (q : CopRequest) : Body s (s.copAsk q) :=
  ⟨⟨id, rfl, rfl, rfl, rfl, rfl, rfl, rfl, rfl, rfl, rfl⟩, rfl, rfl⟩

theorem Body.copTell (s : State) (q : CopRequest) : Body s (s.copTell q) :=
  ⟨⟨id, rfl, rfl, rfl, rfl, rfl, rfl, rfl, rfl, rfl, rfl⟩, rfl, rfl⟩

theorem Body.of_onlyMem {s u : State} (h : OnlyMem s u) : Body s u := by
  obtain ⟨e, w⟩ := h
  refine ⟨⟨w, ?_, ?_, ?_, ?_, ?_, ?_, ?_, ?_, ?_, ?_⟩, ?_, ?_⟩ <;> rw [e]

theorem Body.writeReg (s : State) (m : Mode) {r : Reg} (v : Word) (h : r ≠ Reg.pc) : Body s (s.writeReg m r v) := by
  obtain ⟨p, hp⟩ := phys_isSome m h
  rw [State.writeReg_some v hp]
  exact Body.setPhys s p v

theorem Body.writeRegs (m : Mode) (l : List (Reg × Word)) : ∀ s : State, Body s (s.writeRegs m l) := by
  induction l with
  | nil => intro s; exact Body.refl s
  | cons x rest ih =>
    intro s
    unfold State.writeRegs
    split
    · exact (Body.setPhys s _ _).trans (ih _)
    · exact ih s

section
variable {k : Kind} {th : Bool} {s u : State}

theorem Body.mode? (h : Body s u) : u.mode? = s.mode? := by unfold State.mode?; rw [h.cpsr]
theorem Body.isz (h : Body s u) : u.isz = s.isz := by unfold State.isz; rw [h.cpsr]
theorem Body.pcAligned (h : Body s u) : u.pcAligned = s.pcAligned := by unfold State.pcAligned; rw [h.cpsr, h.pc]

/-- An end with the flags or nothing of CPSR changed, at a pc that is aligned. -/
theorem Ends.plain {t : State} (h : Rest s t) (hm : s.mode?.isSome = true)
    (hl : t.cpsr.extractLsb' 0 28 = s.cpsr.extractLsb' 0 28)
    (hp : psrT s.cpsr = th → s.pcAligned = true → t.pcAligned = true) : Ends k th s t where
  wf := h.wf
  irqPending := h.irqPending
  fiqPending := h.fiqPending
  resetPending := h.resetPending
  halted := h.halted
  cycles := h.cycles
  regions := h.regions
  params := h.params
  draws := h.draws
  spsrDef e he := by rw [h.spsrDef]; exact he
  spsr e := .inl (by rw [h.spsr])
  mode := by unfold State.mode?; rw [mode_of_low hl]; exact hm
  pc _ := hp
  cpsr := .inr (.inr ⟨reserved_of_low hl, .inl (q_of_low hl), .inl (t_of_low hl), .inl (mode_of_low hl)⟩)

theorem Rest.setPc (s : State) (v : Word) : Rest s (s.setPc v) := ⟨id, rfl, rfl, rfl, rfl, rfl, rfl, rfl, rfl, rfl, rfl⟩

theorem Rest.setCpsr (s : State) (v : Word) : Rest s (s.setCpsr v) :=
  ⟨id, rfl, rfl, rfl, rfl, rfl, rfl, rfl, rfl, rfl, rfl⟩

/-- Falling through, with the flags or nothing of CPSR changed. -/
theorem Ends.advance_cpsr (h : Body s u) (hm : s.mode?.isSome = true) {q : Word}
    (hl : q.extractLsb' 0 28 = s.cpsr.extractLsb' 0 28) : Ends k th s (u.setCpsr q).advance := by
  refine Ends.plain (h.rest.trans ((Rest.setCpsr u q).trans (Rest.setPc _ _))) hm (by simpa using hl) (fun _ ha => ?_)
  refine pcAligned_advance (s := s) (by simpa using t_of_low hl) ?_ ha
  simp only [State.advance_pc, State.setCpsr_pc, h.pc, State.isz, State.setCpsr_cpsr, t_of_low hl]

theorem Ends.advance (h : Body s u) (hm : s.mode?.isSome = true) : Ends k th s u.advance := by
  have := Ends.advance_cpsr (k := k) (th := th) h hm (q := u.cpsr) (by rw [h.cpsr])
  exact this

theorem Ends.branch (h : Body s u) (hm : s.mode?.isSome = true) (v : Word) : Ends k th s (u.branchWritePC v) :=
  Ends.plain (h.rest.trans (Rest.setPc u _)) hm (by simp [h.cpsr]) (fun _ _ => State.pcAligned_branchWritePC u v)

theorem Ends.writeDest (h : Body s u) (hm : s.mode?.isSome = true) (m : Mode) (r : Reg) (v : Word) :
    Ends k th s (u.writeDest m r v) := by
  by_cases hr : r = Reg.pc
  · subst hr; rw [State.writeDest_pcReg]; exact Ends.branch h hm v
  · obtain ⟨p, hp⟩ := phys_isSome m hr
    rw [State.writeDest_some v hp]
    exact Ends.advance (h.trans (Body.setPhys u p v)) hm

/-- Taking one of the three synchronous exceptions of an instruction. -/
theorem Ends.raise (h : Body s u) {x : ExcKind}
    (hx : x = .undefinedInstruction ∨ x = .softwareInterrupt ∨ x = .dataAbort) (a : Word) : Ends k th s (u.raise x a) := by
  have r := h.rest
  refine ⟨by simpa using r.wf, r.irqPending, r.fiqPending, r.resetPending, r.halted, r.cycles, r.regions, r.params, r.draws,
    ?_, ?_, ?_, ?_, .inr (.inl ⟨x, hx, ?_⟩)⟩
  · intro e' he
    rw [State.raise_spsrDef, Saved.get_set, r.spsrDef]
    split <;> simp [he]
  · intro e'
    rw [State.raise_spsr, Saved.get_set, r.spsr, h.cpsr]
    split
    · right; rfl
    · left; rfl
  · simp [State.mode?]
  · intro hb _ _
    rw [State.pcAligned_iff]
    simp only [State.raise_cpsr, psrT_entryPsr, State.raise_pc, r.params]
    have hlow : (s.params.vectorBase + x.offset).extractLsb' 0 2 = 0b00#2 := by
      rw [low_two_add _ _ (by cases x <;> rfl), hb]
    simpa using congrArg BitVec.toNat hlow
  · simp [h.cpsr, r.params]

/-- The exception return. -/
theorem Good.exceptionReturn {m : Mode} (h : Body s u) (hm : s.mode? = some m) {q : Word}
    (hq : s.returnPsr m = .ok q) (v : Word) : Ends k th s ((u.setCpsr q).branchWritePC v) := by
  unfold State.returnPsr State.readSpsr at hq
  cases hs : m.saved with
  | none => simp [hs] at hq
  | some e =>
    simp only [hs] at hq
    by_cases hd : s.spsrDef.get e = true
    · simp only [hd, if_true] at hq
      split at hq
      · rename_i hleg
        cases hq
        have r := h.rest
        refine ⟨by simpa using r.wf, r.irqPending, r.fiqPending, r.resetPending, r.halted, r.cycles, r.regions, r.params,
          r.draws, ?_, ?_, ?_, ?_, .inl ⟨e, ?_, hd, by simp⟩⟩
        · intro e' he; simpa [r.spsrDef] using he
        · intro e'; left; simp [r.spsr]
        · simpa [State.mode?] using hleg
        · intro _ _ _; exact State.pcAligned_branchWritePC _ _
        · rw [hm, Mode.saved_eq_some.1 hs]
      · cases hq
    · simp [hd] at hq

/-! ### The shared operations -/

theorem Good.violation (v : Violation) : Good k th s (violation v) := trivial

theorem Good.armInstr {c : Cond} {body : Mode → Result} (h : ∀ m, s.mode? = some m → Good k th s (body m)) :
    Good k th s (armInstr c s body) := by
  unfold Machine.armInstr
  cases hm : s.mode? with
  | none => trivial
  | some m =>
    simp only
    split
    · exact h m hm
    · exact Ends.advance (Body.refl s) (by simp [hm])

theorem Good.thumbInstr {body : Mode → Result} (h : ∀ m, s.mode? = some m → Good k th s (body m)) :
    Good k th s (thumbInstr s body) := by
  unfold Machine.thumbInstr
  cases hm : s.mode? with
  | none => trivial
  | some m => exact h m hm

theorem AluResult.flags_low (r : AluResult) (p : Word) : (r.flags p).extractLsb' 0 28 = p.extractLsb' 0 28 :=
  setNZCV_low _ _ _ _ _

variable {m : Mode}

theorem Good.writeResult (hm : s.mode? = some m) (sf : Bool) (rd : Reg) (r : AluResult) :
    Good k th s (writeResult m sf rd r s) := by
  have hs : s.mode?.isSome = true := by simp [hm]
  unfold Machine.writeResult
  split
  · split
    · unfold Machine.exceptionReturn
      split
      · trivial
      · rename_i q hq
        exact Good.exceptionReturn (Body.refl s) hm hq _
    · exact Ends.branch (Body.refl s) hs _
  · rename_i hr
    simp only
    split
    · exact Ends.advance_cpsr (Body.writeReg s m _ hr) hs (AluResult.flags_low _ _)
    · exact Ends.advance (Body.writeReg s m _ hr) hs

theorem Good.writeFlags (hm : s.mode? = some m) (r : AluResult) : Good k th s (writeFlags r s) :=
  Ends.advance_cpsr (Body.refl s) (by simp [hm]) (AluResult.flags_low _ _)

theorem Good.writeProduct (hm : s.mode? = some m) (sf : Bool) {rd : Reg} (hr : rd ≠ Reg.pc) (r : Word) :
    Good k th s (writeProduct m sf rd r s) := by
  unfold Machine.writeProduct
  simp only
  split
  · exact Ends.advance_cpsr (Body.writeReg s m _ hr) (by simp [hm]) (setNZCV_low _ _ _ _ _)
  · exact Ends.advance (Body.writeReg s m _ hr) (by simp [hm])

theorem Good.writeLongProduct (hm : s.mode? = some m) (sf : Bool) {rdHi rdLo : Reg} (h1 : rdHi ≠ Reg.pc)
    (h2 : rdLo ≠ Reg.pc) (p : BitVec 64) : Good k th s (writeLongProduct m sf rdHi rdLo p s) := by
  have hb := (Body.writeReg s m (p.extractLsb' 0 32) h2).trans (Body.writeReg _ m (p.extractLsb' 32 32) h1)
  unfold Machine.writeLongProduct
  simp only
  split
  · exact Ends.advance_cpsr hb (by simp [hm]) (setNZCV_low _ _ _ _ _)
  · exact Ends.advance hb (by simp [hm])

/-- An address whose write-back, if any, is not R15. -/
def Address.Safe (ad : Address) : Prop := ∀ x, ad.writeBack = some x → x.1 ≠ Reg.pc

theorem Address.safe_plain (a : Word) : (Address.plain a).Safe := by intro x h; cases h

theorem indexedAddress_safe {p u w : Bool} {rn rd : Reg} {base off : Word} (h : writeBackClash p w rn rd = false) :
    (indexedAddress p u w rn base off).Safe := by
  intro x hx
  cases p <;> cases w <;> simp_all [indexedAddress, writeBackClash] <;> (subst hx; simp_all)

theorem Body.applyWriteBack {ad : Address} (h : ad.Safe) : Body s (s.applyWriteBack m ad) := by
  unfold State.applyWriteBack
  split
  · exact Body.refl s
  · rename_i rn v hw
    exact Body.writeReg s m v (h _ hw)

theorem Good.finishLoad (hm : s.mode? = some m) (rd : Reg) {ad : Address} (h : ad.Safe) (data : Option Word) :
    Good k th s (finishLoad m rd ad data s) := by
  unfold Machine.finishLoad
  simp only
  split
  · exact Ends.raise (Body.applyWriteBack h) (by simp) _
  · exact Ends.writeDest (Body.applyWriteBack h) (by simp [hm]) _ _ _

theorem Good.finishStore (hm : s.mode? = some m) {ad : Address} (h : ad.Safe) {stored : Option State}
    (hs : ∀ t, stored = some t → Body s t) : Good k th s (finishStore m ad stored s) := by
  unfold Machine.finishStore
  split
  · exact Ends.raise (Body.applyWriteBack h) (by simp) _
  · rename_i t
    exact Ends.advance ((hs t rfl).trans (Body.applyWriteBack h)) (by simp [hm])

theorem Good.loadWordTo (hm : s.mode? = some m) (rd : Reg) {ad : Address} (h : ad.Safe) :
    Good k th s (loadWordTo m rd ad s) := by
  unfold Machine.loadWordTo; split
  · trivial
  · exact Good.finishLoad hm rd h _

theorem Good.loadByteTo (hm : s.mode? = some m) (rd : Reg) {ad : Address} (h : ad.Safe) :
    Good k th s (loadByteTo m rd ad s) := Good.finishLoad hm rd h _

theorem Good.loadSignedByteTo (hm : s.mode? = some m) (rd : Reg) {ad : Address} (h : ad.Safe) :
    Good k th s (loadSignedByteTo m rd ad s) := Good.finishLoad hm rd h _

theorem Good.loadHalfTo (hm : s.mode? = some m) (rd : Reg) {ad : Address} (h : ad.Safe) :
    Good k th s (loadHalfTo m rd ad s) := by
  unfold Machine.loadHalfTo; split
  · trivial
  · exact Good.finishLoad hm rd h _

theorem Good.loadSignedHalfTo (hm : s.mode? = some m) (rd : Reg) {ad : Address} (h : ad.Safe) :
    Good k th s (loadSignedHalfTo m rd ad s) := by
  unfold Machine.loadSignedHalfTo; split
  · trivial
  · exact Good.finishLoad hm rd h _

theorem Good.storeWordFrom (hm : s.mode? = some m) (v : Word) {ad : Address} (h : ad.Safe) :
    Good k th s (storeWordFrom m v ad s) := by
  unfold Machine.storeWordFrom; split
  · trivial
  · exact Good.finishStore hm h (fun t ht => Body.of_onlyMem (State.memWrite_onlyMem ht))

theorem Good.storeByteFrom (hm : s.mode? = some m) (v : Word) {ad : Address} (h : ad.Safe) :
    Good k th s (storeByteFrom m v ad s) :=
  Good.finishStore hm h (fun _ ht => Body.of_onlyMem (State.memWrite_onlyMem ht))

theorem Good.storeHalfFrom (hm : s.mode? = some m) (v : Word) {ad : Address} (h : ad.Safe) :
    Good k th s (storeHalfFrom m v ad s) := by
  unfold Machine.storeHalfFrom; split
  · trivial
  · exact Good.finishStore hm h (fun t ht => Body.of_onlyMem (State.memWrite_onlyMem ht))

theorem Good.loadBlock (hm : s.mode? = some m) (bank : Mode) {rn : Reg} (hr : rn ≠ Reg.pc) (base start : Word)
    (regs : List Reg) (wb : Option Word) {psr : Option Word} (hp : ∀ q, psr = some q → s.returnPsr m = .ok q)
    (hpc : psr.isSome = true → ∀ r : List Word × Bool, r = s.readWords (wordAddresses start regs.length) → r.2 = false →
      (loadedPc (regs.zip r.1)).isSome = true) :
    Good k th s (loadBlock m bank rn base start regs wb psr s) := by
  have hs : s.mode?.isSome = true := by simp [hm]
  unfold Machine.loadBlock
  simp only
  split
  · exact Ends.raise ((Body.writeRegs bank _ s).trans (Body.writeReg _ m _ hr)) (by simp) _
  · rename_i hf
    have hb : Body s (State.writeRegs (match wb with
        | none => s
        | some v => s.writeReg m rn v) bank (regs.zip (s.readWords (wordAddresses start regs.length)).1)) := by
      cases wb with
      | none => exact Body.writeRegs bank _ s
      | some v => exact (Body.writeReg s m v hr).trans (Body.writeRegs bank _ _)
    cases psr with
    | none =>
      simp only
      split
      · exact Ends.advance hb hs
      · exact Ends.branch hb hs _
    | some q =>
      have h2 := hpc rfl _ rfl (by simpa using hf)
      simp only
      split
      · rename_i hn; simp [hn] at h2
      · exact Good.exceptionReturn hb hm (hp q rfl) _

theorem Good.storeBlock (hm : s.mode? = some m) (bank : Mode) {rn : Reg} (hr : rn ≠ Reg.pc) (start : Word)
    (regs : List Reg) (wb : Option Word) : Good k th s (storeBlock m bank rn start regs wb s) := by
  have hw := Body.of_onlyMem (State.writeWords_onlyMem
    ((wordAddresses start regs.length).zip (regs.map (s.xLate bank))) s)
  have hb : Body s (match wb with
      | none => (s.writeWords ((wordAddresses start regs.length).zip (regs.map (s.xLate bank)))).1
      | some v => (s.writeWords ((wordAddresses start regs.length).zip (regs.map (s.xLate bank)))).1.writeReg m rn v) := by
    cases wb with
    | none => exact hw
    | some v => exact hw.trans (Body.writeReg _ m v hr)
  unfold Machine.storeBlock
  simp only
  split
  · exact Ends.raise hb (by simp) _
  · exact Ends.advance hb (by simp [hm])

theorem Good.finishSwap (hm : s.mode? = some m) {rd : Reg} (hr : rd ≠ Reg.pc) (data : Option Word) {stored : Option State}
    (hs : ∀ t, stored = some t → Body s t) : Good k th s (finishSwap m rd data stored s) := by
  unfold Machine.finishSwap
  split
  · rename_i v t
    exact Ends.advance ((hs t rfl).trans (Body.writeReg t m v hr)) (by simp [hm])
  · exact Ends.raise (Body.refl s) (by simp) _

theorem Good.askCop (q : CopRequest) {body : Word → List Word → State → Result}
    (h : ∀ first more, Good k th s (body first more (s.copAsk q))) : Good k th s (askCop q s body) := by
  unfold Machine.askCop
  split
  · exact Ends.raise (Body.copAsk s q) (by simp) _
  · exact h _ _

theorem Good.loadCop (hm : s.mode? = some m) (hu : Body s u) {ad : Address} (h : ad.Safe) (n : Nat) :
    Good k th s (loadCop m ad n u) := by
  unfold Machine.loadCop
  simp only
  split
  · exact Ends.raise (hu.trans (Body.applyWriteBack h)) (by simp) _
  · exact Ends.advance ((hu.trans (Body.applyWriteBack h)).trans (Body.copTell _ _)) (by simp [hm])

theorem Good.storeCop (hm : s.mode? = some m) (hu : Body s u) {ad : Address} (h : ad.Safe) (words : List Word) :
    Good k th s (storeCop m ad words u) := by
  have hw := Body.of_onlyMem (State.writeWords_onlyMem ((wordAddresses ad.address words.length).zip words) u)
  unfold Machine.storeCop
  simp only
  split
  · exact Ends.raise ((hu.trans hw).trans (Body.applyWriteBack h)) (by simp) _
  · exact Ends.advance ((hu.trans hw).trans (Body.applyWriteBack h)) (by simp [hm])

theorem Good.branchExchange (hm : s.mode? = some m) (t : Word) : Good .bx th s (branchExchange t s) := by
  have key : ∀ (b : Bool) (v : Word), (psrT (setT s.cpsr b) = b → ((s.setCpsr (setT s.cpsr b)).setPc v).pcAligned = true) →
      Ends .bx th s ((s.setCpsr (setT s.cpsr b)).setPc v) := by
    intro b v hv
    refine ⟨by simp, rfl, rfl, rfl, rfl, rfl, rfl, rfl, rfl, by simp, by simp, ?_, fun _ _ _ => hv (by simp),
      .inr (.inr ⟨by simp, .inl (by simp), .inr rfl, .inl (by simp)⟩)⟩
    simp only [State.mode?, State.setPc_cpsr, State.setCpsr_cpsr, psrM_setT]
    simpa [State.mode?] using congrArg Option.isSome hm
  unfold Machine.branchExchange
  split
  · refine key true _ (fun _ => ?_)
    simp [State.pcAligned]
  · split
    · trivial
    · refine key false _ (fun _ => ?_)
      simp [State.pcAligned, and_word_low]

theorem Good.writePsr (hm : s.mode? = some m) (psr : Psr) (mask : BitVec 4) (operand : Word) (hk : psr = .cpsr → k = .msr) :
    Good k th s (writePsr m psr mask operand s) := by
  have hs : s.mode?.isSome = true := by simp [hm]
  cases psr with
  | cpsr =>
    unfold Machine.writePsr
    simp only
    split
    · trivial
    · rename_i hmode
      split
      · trivial
      · rename_i hT
        have hT' : psrT (mergePsr s.cpsr operand (writeMask mask)) = psrT s.cpsr := by simpa using hT
        refine ⟨by simp, rfl, rfl, rfl, rfl, rfl, rfl, rfl, rfl, by simp, by simp, ?_, ?_,
          .inr (.inr ⟨?_, .inr (hk rfl), .inl ?_, .inr (hk rfl)⟩)⟩
        · simpa [State.mode?, Option.isSome_iff_ne_none] using hmode
        · intro _ _ ha
          refine pcAligned_advance (s := s) (by simpa using hT') ?_ ha
          simp [State.isz, hT']
        · simp [psrReserved_merge]
        · simpa using hT'
  | spsr =>
    unfold Machine.writePsr
    simp only
    split
    · trivial
    · rename_i e he
      have hsp : ∀ e', psrReserved (((s.spsr.set e (mergePsr (s.spsr.get e) operand (writeMask mask)))).get e') =
          psrReserved (s.spsr.get e') ∨
          ((s.spsr.set e (mergePsr (s.spsr.get e) operand (writeMask mask)))).get e' = s.cpsr := by
        intro e'
        left
        rw [Saved.get_set]
        split
        · rename_i hee; subst hee; exact psrReserved_merge _ _ _
        · rfl
      have hm' : ∀ t : State, t.cpsr = s.cpsr → t.mode?.isSome = true := by
        intro t ht; unfold State.mode?; rw [ht]; exact hs
      split
      · refine ⟨by simp, rfl, rfl, rfl, rfl, rfl, rfl, rfl, rfl, ?_, by simpa using hsp, hm' _ (by simp), ?_,
          .inr (.inr ⟨by simp, .inl (by simp), .inl (by simp), .inl (by simp)⟩)⟩
        · intro e' he'; simp [he']
        · intro _ _ ha; exact pcAligned_advance (s := s) rfl rfl ha
      · refine ⟨by simp, rfl, rfl, rfl, rfl, rfl, rfl, rfl, rfl, by simp, by simpa using hsp, hm' _ (by simp), ?_,
          .inr (.inr ⟨by simp, .inl (by simp), .inl (by simp), .inl (by simp)⟩)⟩
        · intro _ _ ha; exact pcAligned_advance (s := s) rfl rfl ha

theorem Good.branchIf (c : Cond) (soffset8 : BitVec 8) : Good k th s (branchIf c soffset8 s) := by
  unfold Machine.branchIf
  refine Good.thumbInstr (fun m hm => ?_)
  split
  · exact Ends.branch (Body.refl s) (by simp [hm]) _
  · exact Ends.advance (Body.refl s) (by simp [hm])

end

end Sys2Proof.Machine
end

