-- ==== Sys2Proof/Laws/Exec.lean ====
section
/-! SUPPORT. Every instruction has the shape of `Ends`: one case per constructor, closed by the lemmas of the shared
operations. -/
namespace Sys2Proof.Machine

section
variable {k : Kind} {th : Bool} {s : State} {m : Mode}

theorem Good.ite {c : Prop} [Decidable c] {a b : Result} (ha : c → Good k th s a) (hb : ¬ c → Good k th s b) :
    Good k th s (if c then a else b) := by
  split
  · exact ha ‹_›
  · exact hb ‹_›

theorem Good.guard {c : Prop} [Decidable c] {v : Violation} {b : Result} (hb : ¬ c → Good k th s b) :
    Good k th s (if c then Machine.violation v else b) := Good.ite (fun _ => trivial) hb

theorem ne_pc_of_beq {r : Reg} (h : (r == Reg.pc) = false) : r ≠ Reg.pc := by simpa using h

theorem mulClash_rd {rd rs rm : Reg} (h : ¬ mulClash rd rs rm = true) : rd ≠ Reg.pc := by
  intro e; simp [mulClash, e] at h

theorem mulClash_rd' {rd rn rs rm : Reg} (h : ¬ (mulClash rd rs rm || rn == Reg.pc) = true) : rd ≠ Reg.pc := by
  intro e; simp [mulClash, e] at h

theorem mullClash_hi {hi lo rs rm : Reg} (h : ¬ mullClash hi lo rs rm = true) : hi ≠ Reg.pc := by
  intro e; simp [mullClash, e] at h

theorem mullClash_lo {hi lo rs rm : Reg} (h : ¬ mullClash hi lo rs rm = true) : lo ≠ Reg.pc := by
  intro e; simp [mullClash, e] at h

theorem swpClash_rd {rn rd rm : Reg} (h : ¬ swpClash rn rd rm = true) : rd ≠ Reg.pc := by
  intro e; simp [swpClash, e] at h

theorem swpClash_rd' {rn rd rm : Reg} {b : Bool} (h : ¬ (swpClash rn rd rm || b) = true) : rd ≠ Reg.pc := by
  intro e; simp [swpClash, e] at h

theorem blockClash_rn {list : BitVec 16} {rn : Reg} (h : ¬ blockClash list rn = true) : rn ≠ Reg.pc := by
  intro e; simp [blockClash, e] at h

theorem noClash {p w : Bool} {rn rd : Reg} (h : ¬ writeBackClash p w rn rd = true) : writeBackClash p w rn rd = false := by
  simpa using h

theorem noClash_of_or {p w : Bool} {rn rd : Reg} {b : Bool} (h : ¬ (writeBackClash p w rn rd || b) = true) :
    writeBackClash p w rn rd = false := by
  simp at h; exact h.1

theorem noClash_of_or_or {p w : Bool} {rn rd : Reg} {b c : Bool} (h : ¬ (writeBackClash p w rn rd || b || c) = true) :
    writeBackClash p w rn rd = false := by
  simp at h; exact h.1.1

theorem copAddress_safe {p u w : Bool} {rn : Reg} {offset8 : BitVec 8} (h : ¬ copClash p w rn = true) :
    (copAddress m p u w rn offset8 s).Safe := by
  intro x hx
  cases p <;> cases w <;> simp_all [copClash, copAddress, indexedAddress] <;> (subst hx; simp_all)

theorem listRegs_nodup (list : BitVec 16) : (listRegs list).Nodup := List.Pairwise.filter _ (by decide : allRegs.Nodup)

theorem mem_listRegs {list : BitVec 16} {r : Reg} : r ∈ listRegs list ↔ list.getLsbD r.val = true := by
  have : r ∈ allRegs := by revert r; decide
  simp [listRegs, this]

theorem readWords_length (l : List Word) : ∀ s : State, (s.readWords l).2 = false → (s.readWords l).1.length = l.length := by
  induction l with
  | nil => intro s _; rfl
  | cons a rest ih =>
    intro s h
    unfold State.readWords at h ⊢
    split
    · rename_i hn; simp [hn] at h
    · rename_i w hw
      simp only [hw] at h
      simp [ih s h]

theorem wordAddresses_length (start : Word) (n : Nat) : (wordAddresses start n).length = n := by simp [wordAddresses]

theorem loadedPc_isSome {regs : List Reg} {vs : List Word} (hl : vs.length = regs.length) (hm : Reg.pc ∈ regs) :
    (loadedPc (regs.zip vs)).isSome = true := by
  unfold loadedPc
  rw [Option.isSome_map, List.find?_isSome]
  obtain ⟨n, hn, he⟩ := List.getElem_of_mem hm
  refine ⟨(regs[n], vs[n]'(by omega)), ?_, by simp [he]⟩
  rw [List.mem_iff_getElem]
  exact ⟨n, by simp; omega, by simp⟩

theorem Good.execLdm (c : Cond) (p u hat w : Bool) (rn : Reg) (list : BitVec 16) :
    Good k th s (execLdm c p u hat w rn list s) := by
  refine Good.armInstr fun m hm => Good.guard fun hc => ?_
  have hr := blockClash_rn hc
  refine Good.ite (fun h1 => Good.guard fun _ => ?_) fun h1 => Good.guard fun _ => Good.ite (fun hh => ?_) fun _ => ?_
  · exact Good.loadBlock hm _ hr _ _ _ _ (by simp) (by simp)
  · split
    · trivial
    · rename_i psr hpsr
      refine Good.loadBlock hm _ hr _ _ _ _ (by rintro q ⟨⟩; exact hpsr) (fun _ r hr' hf => ?_)
      subst hr'
      refine loadedPc_isSome ?_ (mem_listRegs.2 ?_)
      · rw [readWords_length _ _ hf, wordAddresses_length]
      · have : list.getLsbD 15 = true := by simpa [hh] using h1
        exact this
  · exact Good.loadBlock hm _ hr _ _ _ _ (by simp) (by simp)

theorem Good.execStm (c : Cond) (p u hat w : Bool) (rn : Reg) (list : BitVec 16) :
    Good k th s (execStm c p u hat w rn list s) := by
  refine Good.armInstr fun m hm => Good.guard fun hc => ?_
  have hr := blockClash_rn hc
  exact Good.ite (fun _ => Good.guard fun _ => Good.storeBlock hm _ hr _ _ _)
    (fun _ => Good.guard fun _ => Good.storeBlock hm _ hr _ _ _)

theorem Good.execMrs (c : Cond) (psr : Psr) (rd : Reg) : Good k th s (execMrs c psr rd s) := by
  refine Good.armInstr fun m hm => Good.guard fun hr => ?_
  have hs : s.mode?.isSome = true := by simp [hm]
  cases psr with
  | cpsr => exact Ends.advance (Body.writeReg s m _ hr) hs
  | spsr =>
    simp only
    split
    · trivial
    · exact Ends.advance (Body.writeReg s m _ hr) hs

theorem Good.execMrc (c : Cond) (opc1 : BitVec 3) (crn : BitVec 4) (rd : Reg) (cp : BitVec 4) (opc2 : BitVec 3)
    (crm : BitVec 4) : Good k th s (execMrc c opc1 crn rd cp opc2 crm s) := by
  refine Good.armInstr fun m hm => Good.askCop _ fun first more => Good.ite (fun _ => ?_) fun hr => ?_
  · exact Ends.advance_cpsr (Body.copAsk s _) (by simp [hm]) (setNZCV_low _ _ _ _ _)
  · exact Ends.advance ((Body.copAsk s _).trans (Body.writeReg _ m _ hr)) (by simp [hm])

theorem Good.execBl (c : Cond) (offset24 : BitVec 24) : Good k th s (execBl c offset24 s) :=
  Good.armInstr fun m hm => Ends.branch (Body.writeReg s m _ (by decide)) (by simp [hm]) _

theorem Good.execTBlSecond (offset11 : BitVec 11) : Good k true s (execTBlSecond offset11 s) := by
  refine Good.thumbInstr fun m hm => ?_
  refine Ends.plain ((Body.writeReg s m _ (by decide)).rest.trans (Rest.setPc _ _)) (by simp [hm]) (by simp)
    (fun ht _ => ?_)
  simp [State.pcAligned, ht]

end

/-- Every instruction answers a next state of the shape of `Ends`, or a violation. -/
theorem exec_good (i : Instr) (s : State) : Good (Kind.of i) i.isThumb s (exec i s) := by
  cases i with
  | andI => exact Good.armInstr fun m hm => Good.writeResult hm _ _ _
  | andR => exact Good.armInstr fun m hm => Good.writeResult hm _ _ _
  | andS => exact Good.armInstr fun m hm => Good.guard fun _ => Good.writeResult hm _ _ _
  | eorI => exact Good.armInstr fun m hm => Good.writeResult hm _ _ _
  | eorR => exact Good.armInstr fun m hm => Good.writeResult hm _ _ _
  | eorS => exact Good.armInstr fun m hm => Good.guard fun _ => Good.writeResult hm _ _ _
  | subI => exact Good.armInstr fun m hm => Good.writeResult hm _ _ _
  | subR => exact Good.armInstr fun m hm => Good.writeResult hm _ _ _
  | subS => exact Good.armInstr fun m hm => Good.guard fun _ => Good.writeResult hm _ _ _
  | rsbI => exact Good.armInstr fun m hm => Good.writeResult hm _ _ _
  | rsbR => exact Good.armInstr fun m hm => Good.writeResult hm _ _ _
  | rsbS => exact Good.armInstr fun m hm => Good.guard fun _ => Good.writeResult hm _ _ _
  | addI => exact Good.armInstr fun m hm => Good.writeResult hm _ _ _
  | addR => exact Good.armInstr fun m hm => Good.writeResult hm _ _ _
  | addS => exact Good.armInstr fun m hm => Good.guard fun _ => Good.writeResult hm _ _ _
  | adcI => exact Good.armInstr fun m hm => Good.writeResult hm _ _ _
  | adcR => exact Good.armInstr fun m hm => Good.writeResult hm _ _ _
  | adcS => exact Good.armInstr fun m hm => Good.guard fun _ => Good.writeResult hm _ _ _
  | sbcI => exact Good.armInstr fun m hm => Good.writeResult hm _ _ _
  | sbcR => exact Good.armInstr fun m hm => Good.writeResult hm _ _ _
  | sbcS => exact Good.armInstr fun m hm => Good.guard fun _ => Good.writeResult hm _ _ _
  | rscI => exact Good.armInstr fun m hm => Good.writeResult hm _ _ _
  | rscR => exact Good.armInstr fun m hm => Good.writeResult hm _ _ _
  | rscS => exact Good.armInstr fun m hm => Good.guard fun _ => Good.writeResult hm _ _ _
  | tstI => exact Good.armInstr fun m hm => Good.writeFlags hm _
  | tstR => exact Good.armInstr fun m hm => Good.writeFlags hm _
  | tstS => exact Good.armInstr fun m hm => Good.guard fun _ => Good.writeFlags hm _
  | teqI => exact Good.armInstr fun m hm => Good.writeFlags hm _
  | teqR => exact Good.armInstr fun m hm => Good.writeFlags hm _
  | teqS => exact Good.armInstr fun m hm => Good.guard fun _ => Good.writeFlags hm _
  | cmpI => exact Good.armInstr fun m hm => Good.writeFlags hm _
  | cmpR => exact Good.armInstr fun m hm => Good.writeFlags hm _
  | cmpS => exact Good.armInstr fun m hm => Good.guard fun _ => Good.writeFlags hm _
  | cmnI => exact Good.armInstr fun m hm => Good.writeFlags hm _
  | cmnR => exact Good.armInstr fun m hm => Good.writeFlags hm _
  | cmnS => exact Good.armInstr fun m hm => Good.guard fun _ => Good.writeFlags hm _
  | orrI => exact Good.armInstr fun m hm => Good.writeResult hm _ _ _
  | orrR => exact Good.armInstr fun m hm => Good.writeResult hm _ _ _
  | orrS => exact Good.armInstr fun m hm => Good.guard fun _ => Good.writeResult hm _ _ _
  | movI => exact Good.armInstr fun m hm => Good.writeResult hm _ _ _
  | movR => exact Good.armInstr fun m hm => Good.writeResult hm _ _ _
  | movS => exact Good.armInstr fun m hm => Good.guard fun _ => Good.writeResult hm _ _ _
  | bicI => exact Good.armInstr fun m hm => Good.writeResult hm _ _ _
  | bicR => exact Good.armInstr fun m hm => Good.writeResult hm _ _ _
  | bicS => exact Good.armInstr fun m hm => Good.guard fun _ => Good.writeResult hm _ _ _
  | mvnI => exact Good.armInstr fun m hm => Good.writeResult hm _ _ _
  | mvnR => exact Good.armInstr fun m hm => Good.writeResult hm _ _ _
  | mvnS => exact Good.armInstr fun m hm => Good.guard fun _ => Good.writeResult hm _ _ _
  | mrs => exact Good.execMrs _ _ _
  | msrR => exact Good.armInstr fun m hm => Good.guard fun _ => Good.writePsr hm _ _ _ (by rintro rfl; rfl)
  | msrI => exact Good.armInstr fun m hm => Good.writePsr hm _ _ _ (by rintro rfl; rfl)
  | bx => exact Good.armInstr fun m hm => Good.guard fun _ => Good.branchExchange hm _
  | mul => exact Good.armInstr fun m hm => Good.guard fun h => Good.writeProduct hm _ (mulClash_rd h) _
  | mla => exact Good.armInstr fun m hm => Good.guard fun h => Good.writeProduct hm _ (mulClash_rd' h) _
  | umull => exact Good.armInstr fun m hm => Good.guard fun h => Good.writeLongProduct hm _ (mullClash_hi h) (mullClash_lo h) _
  | umlal => exact Good.armInstr fun m hm => Good.guard fun h => Good.writeLongProduct hm _ (mullClash_hi h) (mullClash_lo h) _
  | smull => exact Good.armInstr fun m hm => Good.guard fun h => Good.writeLongProduct hm _ (mullClash_hi h) (mullClash_lo h) _
  | smlal => exact Good.armInstr fun m hm => Good.guard fun h => Good.writeLongProduct hm _ (mullClash_hi h) (mullClash_lo h) _
  | swp => exact Good.armInstr fun m hm => Good.guard fun h => Good.finishSwap hm (swpClash_rd' h) _ fun t ht => Body.of_onlyMem (State.memWrite_onlyMem ht)
  | swpb => exact Good.armInstr fun m hm => Good.guard fun h => Good.finishSwap hm (swpClash_rd h) _ fun t ht => Body.of_onlyMem (State.memWrite_onlyMem ht)
  | strhR => exact Good.armInstr fun m hm => Good.guard fun h => Good.storeHalfFrom hm _ (indexedAddress_safe (noClash_of_or_or h))
  | strhI => exact Good.armInstr fun m hm => Good.guard fun h => Good.storeHalfFrom hm _ (indexedAddress_safe (noClash_of_or h))
  | ldrhR => exact Good.armInstr fun m hm => Good.guard fun h => Good.loadHalfTo hm _ (indexedAddress_safe (noClash_of_or_or h))
  | ldrhI => exact Good.armInstr fun m hm => Good.guard fun h => Good.loadHalfTo hm _ (indexedAddress_safe (noClash_of_or h))
  | ldrsbR => exact Good.armInstr fun m hm => Good.guard fun h => Good.loadSignedByteTo hm _ (indexedAddress_safe (noClash_of_or_or h))
  | ldrsbI => exact Good.armInstr fun m hm => Good.guard fun h => Good.loadSignedByteTo hm _ (indexedAddress_safe (noClash_of_or h))
  | ldrshR => exact Good.armInstr fun m hm => Good.guard fun h => Good.loadSignedHalfTo hm _ (indexedAddress_safe (noClash_of_or_or h))
  | ldrshI => exact Good.armInstr fun m hm => Good.guard fun h => Good.loadSignedHalfTo hm _ (indexedAddress_safe (noClash_of_or h))
  | ldrI => exact Good.armInstr fun m hm => Good.guard fun h => Good.loadWordTo hm _ (indexedAddress_safe (noClash h))
  | ldrR => exact Good.armInstr fun m hm => Good.guard fun h => Good.loadWordTo hm _ (indexedAddress_safe (noClash_of_or h))
  | ldrbI => exact Good.armInstr fun m hm => Good.guard fun h => Good.loadByteTo hm _ (indexedAddress_safe (noClash_of_or h))
  | ldrbR => exact Good.armInstr fun m hm => Good.guard fun h => Good.loadByteTo hm _ (indexedAddress_safe (noClash_of_or_or h))
  | strI => exact Good.armInstr fun m hm => Good.guard fun h => Good.storeWordFrom hm _ (indexedAddress_safe (noClash h))
  | strR => exact Good.armInstr fun m hm => Good.guard fun h => Good.storeWordFrom hm _ (indexedAddress_safe (noClash_of_or h))
  | strbI => exact Good.armInstr fun m hm => Good.guard fun h => Good.storeByteFrom hm _ (indexedAddress_safe (noClash_of_or h))
  | strbR => exact Good.armInstr fun m hm => Good.guard fun h => Good.storeByteFrom hm _ (indexedAddress_safe (noClash_of_or_or h))
  | undefined => exact Good.armInstr fun _ _ => Ends.raise (Body.refl s) (by simp) _
  | ldm => exact Good.execLdm _ _ _ _ _ _ _
  | stm => exact Good.execStm _ _ _ _ _ _ _
  | b => exact Good.armInstr fun m hm => Ends.branch (Body.refl s) (by simp [hm]) _
  | bl => exact Good.execBl _ _
  | ldc => exact Good.armInstr fun m hm => Good.guard fun h => Good.askCop _ fun _ _ => Good.loadCop hm (Body.copAsk s _) (copAddress_safe h) _
  | stc => exact Good.armInstr fun m hm => Good.guard fun h => Good.askCop _ fun _ _ => Good.storeCop hm (Body.copAsk s _) (copAddress_safe h) _
  | cdp => exact Good.armInstr fun m hm => Good.askCop _ fun _ _ => Ends.advance (Body.copAsk s _) (by simp [hm])
  | mrc => exact Good.execMrc _ _ _ _ _ _ _
  | mcr => exact Good.armInstr fun m hm => Good.askCop _ fun _ _ => Ends.advance (Body.copAsk s _) (by simp [hm])
  | swi => exact Good.armInstr fun _ _ => Ends.raise (Body.refl s) (by simp) _
  | tLslI => exact Good.thumbInstr fun m hm => Good.writeResult hm _ _ _
  | tLsrI => exact Good.thumbInstr fun m hm => Good.writeResult hm _ _ _
  | tAsrI => exact Good.thumbInstr fun m hm => Good.writeResult hm _ _ _
  | tAddR => exact Good.thumbInstr fun m hm => Good.writeResult hm _ _ _
  | tSubR => exact Good.thumbInstr fun m hm => Good.writeResult hm _ _ _
  | tAddI3 => exact Good.thumbInstr fun m hm => Good.writeResult hm _ _ _
  | tSubI3 => exact Good.thumbInstr fun m hm => Good.writeResult hm _ _ _
  | tMovI => exact Good.thumbInstr fun m hm => Good.writeResult hm _ _ _
  | tCmpI => exact Good.thumbInstr fun m hm => Good.writeFlags hm _
  | tAddI8 => exact Good.thumbInstr fun m hm => Good.writeResult hm _ _ _
  | tSubI8 => exact Good.thumbInstr fun m hm => Good.writeResult hm _ _ _
  | tAnd => exact Good.thumbInstr fun m hm => Good.writeResult hm _ _ _
  | tEor => exact Good.thumbInstr fun m hm => Good.writeResult hm _ _ _
  | tLslR => exact Good.thumbInstr fun m hm => Good.writeResult hm _ _ _
  | tLsrR => exact Good.thumbInstr fun m hm => Good.writeResult hm _ _ _
  | tAsrR => exact Good.thumbInstr fun m hm => Good.writeResult hm _ _ _
  | tAdc => exact Good.thumbInstr fun m hm => Good.writeResult hm _ _ _
  | tSbc => exact Good.thumbInstr fun m hm => Good.writeResult hm _ _ _
  | tRorR => exact Good.thumbInstr fun m hm => Good.writeResult hm _ _ _
  | tTst => exact Good.thumbInstr fun m hm => Good.writeFlags hm _
  | tNeg => exact Good.thumbInstr fun m hm => Good.writeResult hm _ _ _
  | tCmpR => exact Good.thumbInstr fun m hm => Good.writeFlags hm _
  | tCmn => exact Good.thumbInstr fun m hm => Good.writeFlags hm _
  | tOrr => exact Good.thumbInstr fun m hm => Good.writeResult hm _ _ _
  | tMul => exact Good.thumbInstr fun m hm => Good.guard fun _ => Good.writeProduct hm _ (loReg_ne_pc _) _
  | tBic => exact Good.thumbInstr fun m hm => Good.writeResult hm _ _ _
  | tMvn => exact Good.thumbInstr fun m hm => Good.writeResult hm _ _ _
  | tAddHi => exact Good.thumbInstr fun m hm => Good.guard fun _ => Ends.writeDest (Body.refl s) (by simp [hm]) _ _ _
  | tCmpHi => exact Good.thumbInstr fun m hm => Good.guard fun _ => Good.writeFlags hm _
  | tMovHi => exact Good.thumbInstr fun m hm => Good.guard fun _ => Ends.writeDest (Body.refl s) (by simp [hm]) _ _ _
  | tBx => exact Good.thumbInstr fun m hm => Good.branchExchange hm _
  | tLdrPc => exact Good.thumbInstr fun m hm => Good.finishLoad hm _ (Address.safe_plain _) _
  | tStrR => exact Good.thumbInstr fun m hm => Good.storeWordFrom hm _ (Address.safe_plain _)
  | tStrbR => exact Good.thumbInstr fun m hm => Good.storeByteFrom hm _ (Address.safe_plain _)
  | tLdrR => exact Good.thumbInstr fun m hm => Good.loadWordTo hm _ (Address.safe_plain _)
  | tLdrbR => exact Good.thumbInstr fun m hm => Good.loadByteTo hm _ (Address.safe_plain _)
  | tStrhR => exact Good.thumbInstr fun m hm => Good.storeHalfFrom hm _ (Address.safe_plain _)
  | tLdsbR => exact Good.thumbInstr fun m hm => Good.loadSignedByteTo hm _ (Address.safe_plain _)
  | tLdrhR => exact Good.thumbInstr fun m hm => Good.loadHalfTo hm _ (Address.safe_plain _)
  | tLdshR => exact Good.thumbInstr fun m hm => Good.loadSignedHalfTo hm _ (Address.safe_plain _)
  | tStrI => exact Good.thumbInstr fun m hm => Good.storeWordFrom hm _ (Address.safe_plain _)
  | tLdrI => exact Good.thumbInstr fun m hm => Good.loadWordTo hm _ (Address.safe_plain _)
  | tStrbI => exact Good.thumbInstr fun m hm => Good.storeByteFrom hm _ (Address.safe_plain _)
  | tLdrbI => exact Good.thumbInstr fun m hm => Good.loadByteTo hm _ (Address.safe_plain _)
  | tStrhI => exact Good.thumbInstr fun m hm => Good.storeHalfFrom hm _ (Address.safe_plain _)
  | tLdrhI => exact Good.thumbInstr fun m hm => Good.loadHalfTo hm _ (Address.safe_plain _)
  | tStrSp => exact Good.thumbInstr fun m hm => Good.storeWordFrom hm _ (Address.safe_plain _)
  | tLdrSp => exact Good.thumbInstr fun m hm => Good.loadWordTo hm _ (Address.safe_plain _)
  | tAddPc => exact Good.thumbInstr fun m hm => Ends.writeDest (Body.refl s) (by simp [hm]) _ _ _
  | tAddSp => exact Good.thumbInstr fun m hm => Ends.writeDest (Body.refl s) (by simp [hm]) _ _ _
  | tSpAdd => exact Good.thumbInstr fun m hm => Ends.writeDest (Body.refl s) (by simp [hm]) _ _ _
  | tSpSub => exact Good.thumbInstr fun m hm => Ends.writeDest (Body.refl s) (by simp [hm]) _ _ _
  | tPush => exact Good.thumbInstr fun m hm => Good.guard fun _ => Good.storeBlock hm _ (by decide) _ _ _
  | tPop => exact Good.thumbInstr fun m hm => Good.guard fun _ => Good.loadBlock hm _ (by decide) _ _ _ _ (by simp) (by simp)
  | tStmia => exact Good.thumbInstr fun m hm => Good.guard fun _ => Good.storeBlock hm _ (loReg_ne_pc _) _ _ _
  | tLdmia => exact Good.thumbInstr fun m hm => Good.guard fun _ => Good.loadBlock hm _ (loReg_ne_pc _) _ _ _ _ (by simp) (by simp)
  | tBeq => exact Good.branchIf _ _
  | tBne => exact Good.branchIf _ _
  | tBcs => exact Good.branchIf _ _
  | tBcc => exact Good.branchIf _ _
  | tBmi => exact Good.branchIf _ _
  | tBpl => exact Good.branchIf _ _
  | tBvs => exact Good.branchIf _ _
  | tBvc => exact Good.branchIf _ _
  | tBhi => exact Good.branchIf _ _
  | tBls => exact Good.branchIf _ _
  | tBge => exact Good.branchIf _ _
  | tBlt => exact Good.branchIf _ _
  | tBgt => exact Good.branchIf _ _
  | tBle => exact Good.branchIf _ _
  | tUndefined => exact Good.thumbInstr fun _ _ => Ends.raise (Body.refl s) (by simp) _
  | tSwi => exact Good.thumbInstr fun _ _ => Ends.raise (Body.refl s) (by simp) _
  | tB => exact Good.thumbInstr fun m hm => Ends.branch (Body.refl s) (by simp [hm]) _
  | tBlFirst => exact Good.thumbInstr fun m hm => Ends.advance (Body.writeReg s m _ (by decide)) (by simp [hm])
  | tBlSecond => exact Good.execTBlSecond _

/-- What a next state of an instruction shows. -/
theorem exec_ends {i : Instr} {s t : State} (h : exec i s = .next t) : Ends (Kind.of i) i.isThumb s t := by
  have := exec_good i s
  rw [h] at this
  exact this

end Sys2Proof.Machine
end

