-- ==== Sys2Proof/Laws/Runs.lean ====
section
/-! SUPPORT. What an instruction that runs starts from and what the shared operations of every family leave: the condition is
behind it, pc is aligned, and taking an exception is `Entered`. -/
namespace Sys2Proof.Machine

section
variable {i : Instr} {s : State} {m : Mode}

/-- An ARM instruction that runs is its body in the current mode. -/
theorem Runs.arm (h : Runs i s m) (body : Mode → Result) : armInstr i.condition s body = body m := by
  simp [armInstr, h.mode, h.cond]

/-- A THUMB instruction that runs is its body in the current mode. -/
theorem Runs.thumb (h : Runs i s m) (body : Mode → Result) : thumbInstr s body = body m := by
  simp [thumbInstr, h.mode]

/-- ISZ is the size of the instruction that runs. -/
theorem Runs.isz_eq (h : Runs i s m) : s.isz = i.size := by
  simp [State.isz, Instr.size, h.state]

theorem Runs.pc_mod (h : Runs i s m) : s.pc.toNat % (if i.isThumb then 2 else 4) = 0 := by
  have := h.inv.pc
  rw [State.pcAligned_iff, h.state] at this
  exact this

end

/-- A frame of a state that keeps storage: the registers, and that nothing else but pc and CPSR differs. -/
theorem Keeps.of_regs {s t : State} (w : List PhysReg) (h1 : ∀ p, p ∉ w → t.getPhys p = s.getPhys p)
    (h2 : t = { s with regs := t.regs, pc := t.pc, cpsr := t.cpsr }) : Keeps w [] s t := by
  constructor
  · exact h1
  all_goals
    rw [h2]
    try simp

/-- Taking an exception does what `Entered` says (R305). -/
theorem entered_raise (k : ExcKind) (s : State) (a : Word) :
    Entered k (s.returnAddress k a) s (s.raise k a) := by
  refine ⟨by simp, by simp, ?_, by simp [State.mode?], by simp, by simp, by simp, by simp [entryPsr_upper], ?_, ?_,
    by simp, rfl⟩
  · intro e he
    simp [he]
  · simp [State.getPhys]
  · intro p hp
    simp [State.getPhys, hp]

/-- The flags a computation leaves (R152). -/
theorem AluResult.flagsBecome (r : AluResult) (p : Word) :
    FlagsBecome p (r.flags p) r.value.msb (decide (r.value.toNat = 0)) r.c r.v := by
  refine ⟨?_, ?_, ?_, ?_, AluResult.flags_low _ _⟩
  · simp [AluResult.flags, BitVec.msb_eq_getLsbD_last]
  · simp only [AluResult.flags, psrZ_setNZCV]
    rw [Bool.eq_iff_iff]
    simp [← BitVec.toNat_inj]
  · simp [AluResult.flags]
  · simp [AluResult.flags]

/-! ### AddWithCarry is exact (R9) -/

theorem addWithCarry_exact (a b : Word) (c : Bool) :
    addWithCarry a b c = exactResult false (fun a b => a + b + (if c then 1 else 0)) a b := by
  have ha := BitVec.toInt_eq_toNat_cond a
  have hb := BitVec.toInt_eq_toNat_cond b
  have := a.isLt
  have := b.isLt
  unfold addWithCarry exactResult
  simp only [AluResult.mk.injEq]
  have hr := BitVec.toInt_eq_toNat_cond (BitVec.ofNat 32 (a.toNat + b.toNat + c.toNat))
  rw [BitVec.toNat_ofNat] at hr
  refine ⟨?_, ?_, ?_⟩
  · apply BitVec.eq_of_toNat_eq
    cases c <;> simp [BitVec.toNat_ofNat, BitVec.toNat_ofInt] <;> omega
  · cases c <;> simp <;> omega
  · rw [Bool.eq_iff_iff]
    cases c <;> simp at hr ⊢ <;> omega

theorem addWithCarry_not_exact (a b : Word) (c : Bool) :
    addWithCarry a (~~~b) c = exactResult true (fun a b => a - b - (1 - (if c then 1 else 0))) a b := by
  have ha := BitVec.toInt_eq_toNat_cond a
  have hb := BitVec.toInt_eq_toNat_cond b
  have hnb := BitVec.toInt_eq_toNat_cond (~~~b)
  have hn : (~~~b).toNat = 2 ^ 32 - 1 - b.toNat := BitVec.toNat_not
  generalize ~~~b = nb at *
  have := a.isLt
  have := b.isLt
  unfold addWithCarry exactResult
  simp only [AluResult.mk.injEq]
  have hr := BitVec.toInt_eq_toNat_cond (BitVec.ofNat 32 (a.toNat + nb.toNat + c.toNat))
  rw [BitVec.toNat_ofNat] at hr
  refine ⟨?_, ?_, ?_⟩
  · apply BitVec.eq_of_toNat_eq
    rw [hn]
    cases c <;> simp [BitVec.toNat_ofNat, BitVec.toNat_ofInt] <;> omega
  · rw [hn]
    cases c <;> simp <;> omega
  · rw [Bool.eq_iff_iff]
    cases c <;> simp at hr ⊢ <;> omega

/-! ### Aligned addresses -/

theorem wordAligned_toNat (a : Word) : (a &&& 0xFFFFFFFC#32).toNat = 4 * (a.toNat / 4) := by
  have hb : ∀ k : Fin 32, (0xFFFFFFFC#32).getLsbD k.val = decide (2 ≤ k.val) := by decide
  have e : a &&& 0xFFFFFFFC#32 = a.extractLsb' 2 30 ++ 0#2 := by
    apply BitVec.eq_of_getLsbD_eq
    intro k hk
    rw [BitVec.getLsbD_and, hb ⟨k, hk⟩, BitVec.getLsbD_append]
    by_cases h : k < 2
    · rw [if_pos h]
      simp
      omega
    · rw [if_neg h, BitVec.getLsbD_extractLsb']
      have h1 : 2 + (k - 2) = k := by omega
      have h2 : k - 2 < 30 := by omega
      have h3 : 2 ≤ k := by omega
      simp [h1, h2, h3]
  rw [e]
  have := a.isLt
  rw [BitVec.toNat_append]
  simp [Nat.shiftLeft_eq, Nat.shiftRight_eq_div_pow]
  omega

theorem halfAligned_toNat (a : Word) : (a &&& 0xFFFFFFFE#32).toNat = 2 * (a.toNat / 2) := by
  have hb : ∀ k : Fin 32, (0xFFFFFFFE#32).getLsbD k.val = decide (1 ≤ k.val) := by decide
  have e : a &&& 0xFFFFFFFE#32 = a.extractLsb' 1 31 ++ 0#1 := by
    apply BitVec.eq_of_getLsbD_eq
    intro k hk
    rw [BitVec.getLsbD_and, hb ⟨k, hk⟩, BitVec.getLsbD_append]
    by_cases h : k < 1
    · rw [if_pos h]
      simp
      omega
    · rw [if_neg h, BitVec.getLsbD_extractLsb']
      have h1 : 1 + (k - 1) = k := by omega
      have h2 : k - 1 < 31 := by omega
      have h3 : 1 ≤ k := by omega
      simp [h1, h2, h3]
  rw [e]
  have := a.isLt
  rw [BitVec.toNat_append]
  simp [Nat.shiftLeft_eq, Nat.shiftRight_eq_div_pow]
  omega

theorem low_two_toNat (a : Word) : (a.extractLsb' 0 2).toNat = a.toNat % 4 := by simp

theorem odd_iff (a : Word) : a.getLsbD 0 = true ↔ ¬ a.toNat % 2 = 0 := by
  simp [BitVec.getLsbD, Nat.testBit_zero]

/-- A misaligned word access is refused exactly where the access is not defined (R65). -/
theorem State.wordRefused_iff (s : State) (a : Word) : s.wordRefused a = true ↔ ¬ Width.word.defined s a := by
  have : a.extractLsb' 0 2 ≠ 0b00#2 ↔ ¬ a.toNat % 4 = 0 := by
    rw [ne_eq, ← BitVec.toNat_inj, low_two_toNat]
    exact Iff.rfl
  unfold State.wordRefused Width.defined
  simp only [Bool.and_eq_true, decide_eq_true_eq, this]
  cases s.params.misalign <;> simp

end Sys2Proof.Machine
end

