-- ==== Sys2Proof/Laws/Access.lean ====
section
/-! SUPPORT. What the accesses of loads, stores and block transfers give: the value of a load in bytes of storage, the bytes a
store leaves, the words of a transfer up to its first fault, and the write-back of a base. -/
namespace Sys2Proof.Machine

/-! ### Words of storage -/

theorem rotateRight_bit (w : Word) (r k : Nat) (hr : r < 32) (hk : k < 32) :
    (w.rotateRight r).getLsbD k = w.getLsbD ((k + r) % 32) := by
  rw [BitVec.getLsbD_rotateRight, Nat.mod_eq_of_lt hr]
  by_cases h : k < 32 - r
  · simp only [h, decide_true, cond_true]
    congr 1
    omega
  · simp only [h, decide_false, cond_false, hk, decide_true, Bool.true_and]
    congr 1
    omega

theorem Memory.readWord_bit (mem : Memory) (a : Word) (q j : Nat) (hq : q < 4) (hj : j < 8) :
    (mem.readWord a).getLsbD (8 * q + j) = (mem.byteAt a q).getLsbD j := by
  unfold Memory.readWord
  simp only [BitVec.getLsbD_append]
  obtain rfl | rfl | rfl | rfl : q = 0 ∨ q = 1 ∨ q = 2 ∨ q = 3 := by omega
  · simp [hj]
  · rw [if_neg (by omega), if_pos (by omega)]
    congr 1
    omega
  · rw [if_neg (by omega), if_neg (by omega), if_pos (by omega)]
    congr 1
    omega
  · rw [if_neg (by omega), if_neg (by omega), if_neg (by omega)]
    congr 1
    omega

/-- Byte `j` of a word read (R63). -/
theorem Memory.readWord_byte (mem : Memory) (a : Word) (j : Nat) (hj : j < 4) :
    (mem.readWord a).extractLsb' (8 * j) 8 = mem.byteAt a j := by
  apply BitVec.eq_of_getLsbD_eq
  intro k hk
  rw [BitVec.getLsbD_extractLsb', Memory.readWord_bit _ _ _ _ hj hk]
  simp [hk]

theorem aligned_add_toNat (a : Word) (ha : a.toNat % 4 = 0) (j : Nat) (hj : j < 4) :
    (a + BitVec.ofNat 32 j).toNat = a.toNat + j := by
  have := a.isLt
  rw [BitVec.toNat_add]
  simp
  omega

/-- Byte `j` of the word at a multiple of 4. -/
theorem Memory.readWord_aligned_byte (mem : Memory) (a : Word) (ha : a.toNat % 4 = 0) (j : Nat) (hj : j < 4) :
    (mem.readWord a).extractLsb' (8 * j) 8 = mem.read (a.toNat + j) := by
  rw [Memory.readWord_byte _ _ _ hj, Memory.byteAt, aligned_add_toNat a ha j hj]

/-- LoadWord: byte `k` of the rotated word (R65). -/
theorem Memory.rotated_byte (mem : Memory) (a : Word) (k : Nat) (hk : k < 4) :
    ((mem.readWord (a &&& 0xFFFFFFFC#32)).rotateRight (8 * (a.extractLsb' 0 2).toNat)).extractLsb' (8 * k) 8 =
      mem.read ((a &&& 0xFFFFFFFC#32).toNat + (k + a.toNat) % 4) := by
  apply BitVec.eq_of_getLsbD_eq
  intro j hj
  rw [BitVec.getLsbD_extractLsb', low_two_toNat, rotateRight_bit _ _ _ (by omega) (by omega)]
  have e : (8 * k + j + 8 * (a.toNat % 4)) % 32 = 8 * ((k + a.toNat) % 4) + j := by omega
  have ha : (a &&& 0xFFFFFFFC#32).toNat % 4 = 0 := by rw [wordAligned_toNat]; omega
  rw [e, Memory.readWord_bit _ _ _ _ (by omega) hj, Memory.byteAt, aligned_add_toNat _ ha _ (by omega)]
  simp [hj]

/-! ### Single accesses -/

/-- What the access of a load answers; none is Fault. -/
def LoadOp.answer (o : LoadOp) (s : State) : Option Word :=
  match o.width, o.signed with
  | .word, _ => s.loadWord o.ad.address
  | .byte, false => s.loadByte o.ad.address
  | .byte, true => s.loadSignedByte o.ad.address
  | .half, false => s.loadHalf o.ad.address
  | .half, true => s.loadSignedHalf o.ad.address

theorem LoadOp.answer_absent (o : LoadOp) (s : State)
    (h : s.answers false (o.width.request o.ad.address) = false) : o.answer s = none := by
  obtain ⟨w, sg, rd, ad⟩ := o
  cases w <;> cases sg <;> simp only [LoadOp.answer, Width.request, State.loadWord, State.loadByte,
    State.loadSignedByte, State.loadHalf, State.loadSignedHalf, Option.map_eq_none_iff] at h ⊢
  all_goals first
    | exact State.memReadByte_none.2 h
    | exact State.memReadHalf_none.2 h
    | exact State.memReadWord_none.2 h

/-- A load that is not answered Fault has a value; from storage it is the value `LoadOp.gives` says. -/
theorem LoadOp.answer_some (o : LoadOp) (s : State) (h : s.answers false (o.width.request o.ad.address) = true) :
    ∃ v, o.answer s = some v ∧ (s.isDevice (o.width.request o.ad.address) = false →
      o.width.defined s o.ad.address → o.gives s.mem v) := by
  obtain ⟨w, sg, rd, ad⟩ := o
  cases w <;> cases sg <;> simp only [LoadOp.answer, Width.request, State.loadWord, State.loadByte,
    State.loadSignedByte, State.loadHalf, State.loadSignedHalf, Option.map_eq_some_iff] at h ⊢
  all_goals
    cases hr : s.isDevice _
    all_goals simp only [State.memReadByte, State.memReadHalf, State.memReadWord, State.memRead, h, hr]
    all_goals refine ⟨_, ⟨_, rfl, rfl⟩, ?_⟩
    all_goals first
      | (intro hh; exact absurd hh (by decide))
      | (intro _ hdef)
    all_goals first
      | (intro k hk; exact Memory.rotated_byte _ _ _ hk)
      | skip
    all_goals simp only [LoadOp.gives, Width.defined] at hdef ⊢
    all_goals simp only [Memory.readHalf, Memory.byteAt]
    all_goals try simp only [BitVec.add_zero, if_true, if_false, Bool.false_eq_true]
    all_goals
      have := ad.address.isLt
      have e : (ad.address + 1#32).toNat = ad.address.toNat + 1 := by
        rw [BitVec.toNat_add]
        simp
        omega
      try rw [e]

theorem Width.bytesOf_word (v : Word) : Width.word.bytesOf v = wordBytes v := rfl

theorem Width.bytesOf_byte (v : Word) : Width.byte.bytesOf v = [v.extractLsb' 0 8] := rfl

theorem Width.bytesOf_half (v : Word) : Width.half.bytesOf v = halfBytes (v.extractLsb' 0 16) := by
  have half : ∀ a, a + 8 ≤ 16 → (v.extractLsb' 0 16).extractLsb' a 8 = v.extractLsb' a 8 := by
    intro a ha
    apply BitVec.eq_of_getLsbD_eq
    intro i hi
    have : a + i < 16 := by omega
    simp only [BitVec.getLsbD_extractLsb', hi, this, decide_true, Bool.true_and]
    congr 1
    omega
  rw [halfBytes, half 0 (by omega), half 8 (by omega)]
  rfl

@[simp] theorem Width.bytesOf_length (w : Width) (v : Word) : (w.bytesOf v).length = w.bytes := by cases w <;> rfl

theorem Width.bytesOf_getD (w : Width) (v : Word) (k : Nat) (hk : k < w.bytes) :
    (w.bytesOf v).getD k 0#8 = v.extractLsb' (8 * k) 8 := by
  simp [Width.bytesOf, List.getD, hk]

theorem Width.request_fits (w : Width) (s : State) (a : Word) (h : w.defined s a) :
    (w.request a).toNat + w.bytes ≤ 2 ^ 32 := by
  have := a.isLt
  cases w <;> simp only [Width.request, Width.bytes, Width.defined] at *
  · omega
  · omega
  · rw [wordAligned_toNat]
    omega

theorem Width.mem_cells (w : Width) (a : Word) (n : Nat) :
    n ∈ w.cells a ↔ (w.request a).toNat ≤ n ∧ n < (w.request a).toNat + w.bytes := by
  simp only [Width.cells, List.mem_map, List.mem_range]
  constructor
  · rintro ⟨k, hk, rfl⟩
    omega
  · rintro ⟨h1, h2⟩
    exact ⟨n - (w.request a).toNat, by omega, by omega⟩

/-- What a store leaves in storage: the bytes of the value in its cells, every other byte as before. -/
theorem Width.read_written {s : State} (hwf : s.mem.wf = true) (w : Width) (a : Word) (v : Word) (hd : w.defined s a) :
    (∀ k, k < w.bytes →
      (s.mem.writeBytes (w.request a) (w.bytesOf v)).read ((w.request a).toNat + k) = v.extractLsb' (8 * k) 8) ∧
    (∀ n, n ∉ w.cells a → (s.mem.writeBytes (w.request a) (w.bytesOf v)).read n = s.mem.read n) := by
  have hf := w.request_fits s a hd
  have hr := Memory.read_writeBytes (w.bytesOf v) s.mem (w.request a) hwf (by rw [Width.bytesOf_length]; exact hf)
  refine ⟨fun k hk => ?_, fun n hn => ?_⟩
  · rw [hr, Width.bytesOf_length, if_pos (by omega), Nat.add_sub_cancel_left, w.bytesOf_getD v k hk]
  · rw [Width.mem_cells] at hn
    rw [hr, Width.bytesOf_length, if_neg hn]

/-- The write-back of a base other than R15 writes that register and nothing else. -/
theorem State.applyWriteBack_spec {ad : Address} (m : Mode) (hs : ad.Safe) (s : State) :
    ad.WrittenBack m (s.applyWriteBack m ad) ∧
    (∀ p, p ∉ ad.written m → (s.applyWriteBack m ad).getPhys p = s.getPhys p) ∧
    s.applyWriteBack m ad = { s with regs := (s.applyWriteBack m ad).regs } := by
  unfold State.applyWriteBack Address.WrittenBack Address.written
  cases hw : ad.writeBack with
  | none => simp
  | some x =>
    obtain ⟨r, v⟩ := x
    obtain ⟨p, hp⟩ := phys_isSome m (hs _ hw)
    simp only [State.writeReg_some _ hp]
    refine ⟨?_, ?_, ?_⟩
    · intro rn v' q h1 h2
      simp at h1
      obtain ⟨rfl, rfl⟩ := h1
      rw [hp] at h2
      cases h2
      simp
    · intro q hq
      simp [hp] at hq
      simp [hq]
    · simp [State.setPhys]

/-! ### Transfers of several words -/

theorem wordAddresses_getD (a : Word) (n k : Nat) (hk : k < n) :
    (wordAddresses a n).getD k 0#32 = (a + BitVec.ofNat 32 (4 * k)) &&& 0xFFFFFFFC#32 := by
  simp [wordAddresses, List.getD, hk]

theorem wordAddress_mod (a : Word) (k : Nat) :
    ((a + BitVec.ofNat 32 (4 * k)) &&& 0xFFFFFFFC#32).toNat % 4 = 0 := by
  rw [wordAligned_toNat]
  omega

/-- The addresses of a transfer of fewer than 2^30 words differ. -/
theorem wordAddress_ne (a : Word) (i j : Nat) (hij : i < j) (hj : j < 2 ^ 30) :
    (a + BitVec.ofNat 32 (4 * i)) &&& 0xFFFFFFFC#32 ≠ (a + BitVec.ofNat 32 (4 * j)) &&& 0xFFFFFFFC#32 := by
  intro he
  have := congrArg BitVec.toNat he
  rw [wordAligned_toNat, wordAligned_toNat, BitVec.toNat_add, BitVec.toNat_add] at this
  simp at this
  omega

/-- Reads that none answers Fault: all the words, and from storage the words there. -/
theorem State.readWords_all (s : State) : ∀ l : List Word,
    (∀ k, k < l.length → s.answers false (l.getD k 0#32) = true) →
    ∃ ws, s.readWords l = (ws, false) ∧ ws.length = l.length ∧
      ∀ k, k < l.length → s.isDevice (l.getD k 0#32) = false →
        ws.getD k 0#32 = s.mem.readWord (l.getD k 0#32) := by
  intro l
  induction l with
  | nil => intro _; exact ⟨[], rfl, rfl, by simp⟩
  | cons a l ih =>
    intro h
    have h0 := h 0 (by simp)
    simp at h0
    obtain ⟨ws, e1, e2, e3⟩ := ih (fun k hk => by simpa using h (k + 1) (by simpa using hk))
    cases hr : s.memReadWord false a with
    | none => simp [State.memReadWord_none.1 hr] at h0
    | some w =>
      refine ⟨w :: ws, ?_, by simp [e2], ?_⟩
      · simp [State.readWords, hr, e1]
      · intro k hk
        cases k with
        | zero =>
          simp
          intro hd
          have := (State.memRead_storage (s.mem.readWord a) h0 hd).symm.trans hr
          exact (Option.some.inj this).symm
        | succ k => simpa using e3 k (by simpa using hk)

/-- Reads whose n-th is the first that answers Fault: the n words before it. -/
theorem State.readWords_fault (s : State) (n : Nat) : ∀ l : List Word, n < l.length →
    (∀ k, k < n → s.answers false (l.getD k 0#32) = true) → s.answers false (l.getD n 0#32) = false →
    ∃ ws, s.readWords l = (ws, true) ∧ ws.length = n ∧
      ∀ k, k < n → s.isDevice (l.getD k 0#32) = false → ws.getD k 0#32 = s.mem.readWord (l.getD k 0#32) := by
  induction n with
  | zero =>
    intro l hl _ h
    cases l with
    | nil => simp at hl
    | cons a l =>
      simp at h
      exact ⟨[], by simp [State.readWords, State.memReadWord_none.2 h], rfl, by simp⟩
  | succ n ih =>
    intro l hl hk h
    cases l with
    | nil => simp at hl
    | cons a l =>
      have h0 := hk 0 (by simp)
      simp at h0
      obtain ⟨ws, e1, e2, e3⟩ := ih l (by simpa using hl)
        (fun k hk' => by simpa using hk (k + 1) (by simpa using hk')) (by simpa using h)
      cases hr : s.memReadWord false a with
      | none => simp [State.memReadWord_none.1 hr] at h0
      | some w =>
        refine ⟨w :: ws, ?_, by simp [e2], ?_⟩
        · simp [State.readWords, hr, e1]
        · intro k hk
          cases k with
          | zero =>
            simp
            intro hd
            have := (State.memRead_storage (s.mem.readWord a) h0 hd).symm.trans hr
            exact (Option.some.inj this).symm
          | succ k => simpa using e3 k (by simpa using hk)

/-- One more write request adds to the record what a device completes of it. -/
theorem State.recorded_cons (s t : State) (w : DeviceWrite) (ws : List DeviceWrite) (ht : t.regions = s.regions)
    (hd : t.deviceWrites = if s.isDevice w.address then w :: s.deviceWrites else s.deviceWrites) :
    t.recorded ws = s.recorded (w :: ws) := by
  have e : ∀ a, t.isDevice a = s.isDevice a := fun a => by unfold State.isDevice State.regionAt; rw [ht]
  unfold State.recorded
  rw [hd, List.filter_cons]
  simp only [e]
  split <;> simp

/-- The record depends only on the addresses and the values of the writes. -/
theorem State.recordedWords_congr (s : State) {n : Nat} {f f' g g' : Nat → Word} (hf : ∀ k, k < n → f k = f' k)
    (hg : ∀ k, k < n → g k = g' k) : s.recordedWords n f g = s.recordedWords n f' g' := by
  unfold State.recordedWords
  congr 1
  apply List.map_congr_left
  intro k hk
  rw [hf k (List.mem_range.1 hk), hg k (List.mem_range.1 hk)]

theorem State.mem_storedCells (s : State) (n : Nat) (address : Nat → Word) (b : Nat) :
    b ∈ s.storedCells n address ↔ ∃ k, k < n ∧ s.isDevice (address k) = false ∧ b ∈ Width.word.cells (address k) := by
  simp [State.storedCells, and_assoc]

/-- What the first `n` writes of the list `l` leave, when the n-th, if there is one, is the first that answers Fault. -/
def State.Wrote (s t : State) (n : Nat) (l : List (Word × Word)) : Prop :=
  ∃ u, t.writeWords l = (u, decide (n < l.length)) ∧ u = { t with mem := u.mem, deviceWrites := u.deviceWrites } ∧
    u.mem.wf = true ∧
    u.deviceWrites = t.recordedWords n (fun k => (l.getD k (0#32, 0#32)).1) (fun k => (l.getD k (0#32, 0#32)).2) ∧
    (∀ k, k < n → s.isDevice (l.getD k (0#32, 0#32)).1 = false → ∀ j, j < 4 →
      u.mem.read ((l.getD k (0#32, 0#32)).1.toNat + j) = ((l.getD k (0#32, 0#32)).2).extractLsb' (8 * j) 8) ∧
    (∀ a, (∀ k, k < n → s.isDevice (l.getD k (0#32, 0#32)).1 = false →
        ¬ ((l.getD k (0#32, 0#32)).1.toNat ≤ a ∧ a < (l.getD k (0#32, 0#32)).1.toNat + 4)) →
      u.mem.read a = t.mem.read a)

theorem State.wrote (s : State) (n : Nat) : ∀ (t : State) (l : List (Word × Word)), t.regions = s.regions →
    t.mem.wf = true → n ≤ l.length → (∀ k, k < l.length → (l.getD k (0#32, 0#32)).1.toNat % 4 = 0) →
    (∀ i j, i < j → j < n → (l.getD i (0#32, 0#32)).1 ≠ (l.getD j (0#32, 0#32)).1) →
    (∀ k, k < n → s.accepts (l.getD k (0#32, 0#32)).1 = true) →
    (n < l.length → s.accepts (l.getD n (0#32, 0#32)).1 = false) →
    State.Wrote s t n l := by
  induction n with
  | zero =>
    intro t l ht hwf _ hal _ _ hf
    refine ⟨t, ?_, rfl, hwf, rfl, by simp, by simp⟩
    cases l with
    | nil => rfl
    | cons x l =>
      obtain ⟨a, v⟩ := x
      have := hf (by simp)
      simp at this
      have hr : t.accepts a = s.accepts a := by unfold State.accepts State.regionAt; rw [ht]
      rw [← hr] at this
      simp [State.writeWords, State.memWrite_none.2 this]
  | succ n ih =>
    intro t l ht hwf hn hal hd hok hf
    cases l with
    | nil => simp at hn
    | cons x l =>
      obtain ⟨a, v⟩ := x
      have h0 := hok 0 (by simp)
      have ha0 := hal 0 (by simp)
      simp only [List.getD_cons_zero] at h0 ha0
      have hr : t.accepts a = s.accepts a := by unfold State.accepts State.regionAt; rw [ht]
      have hv : t.isDevice a = s.isDevice a := by unfold State.isDevice State.regionAt; rw [ht]
      have key : ∀ t' : State, t'.regions = t.regions → t'.mem.wf = true → t.memWrite a (wordBytes v) = some t' →
          t' = { t with mem := t'.mem, deviceWrites := t'.deviceWrites } →
          (t'.deviceWrites = if t.isDevice a then ⟨a, wordBytes v⟩ :: t.deviceWrites else t.deviceWrites) →
          (s.isDevice a = false → ∀ j, j < 4 → t'.mem.read (a.toNat + j) = v.extractLsb' (8 * j) 8) →
          (∀ b, (s.isDevice a = false → ¬ (a.toNat ≤ b ∧ b < a.toNat + 4)) → t'.mem.read b = t.mem.read b) →
          State.Wrote s t (n + 1) ((a, v) :: l) := fun t' h1 h2 h3 h4 h7 h5 h6 => by
        obtain ⟨u, e1, e2, e3, e6, e4, e5⟩ := ih t' l (h1.trans ht) h2 (by simpa using hn)
          (fun k hk => by simpa using hal (k + 1) (by simpa using hk))
          (fun i j hij hj => by simpa using hd (i + 1) (j + 1) (by omega) (by omega))
          (fun k hk => by simpa using hok (k + 1) (by omega))
          (fun hk => by simpa using hf (by simpa using hk))
        refine ⟨u, ?_, ?_, e3, ?_, ?_, ?_⟩
        · simp [State.writeWords, h3, e1]
        · rw [e2, h4]
        · rw [e6, State.recordedWords, State.recorded_cons t t' ⟨a, wordBytes v⟩ _ h1 h7, State.recordedWords,
            List.range_succ_eq_map, List.map_cons, List.map_map]
          rfl
        · intro k hk hst j hj
          cases k with
          | zero =>
            simp only [List.getD_cons_zero] at hst ⊢
            rw [e5, h5 hst j hj]
            intro k' hk' hst' hin
            have hne := hd 0 (k' + 1) (by omega) (by omega)
            have hl : k' < l.length := by simp at hn; omega
            have ha := hal (k' + 1) (by simpa using hl)
            simp only [List.getD_cons_zero, List.getD_cons_succ] at hne ha
            apply hne
            apply BitVec.eq_of_toNat_eq
            omega
          | succ k => simpa using e4 k (by omega) (by simpa using hst) j hj
        · intro b hb
          rw [e5, h6]
          · intro hst
            simpa using hb 0 (by omega) (by simpa using hst)
          · intro k hk hst
            simpa using hb (k + 1) (by omega) (by simpa using hst)
      cases hdev : s.isDevice a with
      | false =>
        have hlt := a.isLt
        obtain ⟨c1, c2⟩ := Width.read_written (s := t) hwf .word a v (by simp only [Width.defined]; right; exact ha0)
        have hreq : Width.word.request a = a := by
          apply BitVec.eq_of_toNat_eq
          show (a &&& _).toNat = _
          rw [wordAligned_toNat]
          omega
        rw [hreq] at c1 c2
        refine key { t with mem := t.mem.writeBytes a (wordBytes v) } rfl (Memory.wf_writeBytes (wordBytes v) t.mem a hwf)
          (State.memWrite_storage _ (hr.trans h0) (hv.trans hdev)) rfl ?_ (fun _ j hj => c1 j hj) (fun b hb => c2 b ?_)
        · simp [hv, hdev]
        · rw [Width.mem_cells, hreq]
          exact hb hdev
      | true =>
        refine key { t with deviceWrites := ⟨a, wordBytes v⟩ :: t.deviceWrites } rfl hwf (State.memWrite_device _ (hr.trans h0) (hv.trans hdev)) rfl ?_ ?_ (fun _ _ => rfl)
        · simp [hv, hdev]
        · rw [hdev]
          intro h
          cases h

/-- The words `vs` written at ascending word addresses from `start` on, of which the n-th, if there is one, is the first that
answers Fault. -/
theorem State.writeWords_ascending (s : State) (hwf : s.mem.wf = true) (start : Word) (n : Nat) (vs : List Word)
    (hlen : vs.length ≤ 2 ^ 30) (hn : n ≤ vs.length) (address : Nat → Word)
    (haddr : ∀ k, address k = (start + BitVec.ofNat 32 (4 * k)) &&& 0xFFFFFFFC#32)
    (hok : ∀ k, k < n → s.accepts (address k) = true)
    (hbad : n < vs.length → s.accepts (address n) = false) :
    ∃ u, s.writeWords ((wordAddresses start vs.length).zip vs) = (u, decide (n < vs.length)) ∧
      u = { s with mem := u.mem, deviceWrites := s.recordedWords n address (vs.getD · 0#32) } ∧ u.mem.wf = true ∧
      (∀ k, k < n → s.isDevice (address k) = false → ∀ j, j < 4 →
        u.mem.read ((address k).toNat + j) = (vs.getD k 0#32).extractLsb' (8 * j) 8) ∧
      (∀ b, b ∉ s.storedCells n address → u.mem.read b = s.mem.read b) := by
  have hl : ((wordAddresses start vs.length).zip vs).length = vs.length := by simp [wordAddresses]
  have hg : ∀ k, k < vs.length → ((wordAddresses start vs.length).zip vs).getD k (0#32, 0#32) =
      (address k, vs.getD k 0#32) := fun k hk => by
    rw [haddr]
    simp [List.getD, hk, wordAddresses]
  obtain ⟨u, e1, e2, e3, e6, e4, e5⟩ := State.wrote s n s ((wordAddresses start vs.length).zip vs) rfl hwf (by omega)
    (fun k hk => by rw [hg k (by omega), haddr]; exact wordAddress_mod _ _)
    (fun i j hij hj => by rw [hg i (by omega), hg j (by omega), haddr, haddr]; exact wordAddress_ne start i j hij (by omega))
    (fun k hk => by rw [hg k (by omega)]; exact hok k hk)
    (fun hk => by rw [hg n (by omega)]; exact hbad (by omega))
  rw [hl] at e1
  refine ⟨u, e1, ?_, e3, ?_, ?_⟩
  · rw [e2, e6]
    congr 1
    exact State.recordedWords_congr s (fun k hk => by rw [hg k (by omega)]) (fun k hk => by rw [hg k (by omega)])
  · intro k hk hst j hj
    have := e4 k hk (by rw [hg k (by omega)]; exact hst) j hj
    rw [hg k (by omega)] at this
    exact this
  · intro b hb
    apply e5
    intro k hk hst hin
    rw [hg k (by omega)] at hst hin
    apply hb
    rw [State.mem_storedCells]
    refine ⟨k, hk, hst, ?_⟩
    rw [Width.mem_cells]
    have : Width.word.request (address k) = address k := by
      apply BitVec.eq_of_toNat_eq
      show (_ &&& _ : Word).toNat = _
      have := wordAddress_mod start k
      rw [wordAligned_toNat, haddr]
      omega
    rw [this]
    exact hin

/-! ### Lists of registers -/

theorem allRegs_eq_finRange : allRegs = List.finRange 16 := by decide

theorem listRegs_eq_filter (list : BitVec 16) :
    listRegs list = (List.finRange 16).filter (fun r => list.getLsbD r.val) := by
  rw [listRegs, allRegs_eq_finRange]

/-- A register list is ascending (R202). -/
theorem listRegs_ascending (list : BitVec 16) : (listRegs list).Pairwise (· < ·) := by
  unfold listRegs
  exact List.Pairwise.filter _ (by decide)

/-- Registers written in order change registers only. -/
theorem State.writeRegs_onlyRegs (m : Mode) (l : List (Reg × Word)) :
    ∀ s : State, s.writeRegs m l = { s with regs := (s.writeRegs m l).regs } := by
  induction l with
  | nil => intro s; rfl
  | cons x l ih =>
    intro s
    unfold State.writeRegs
    split
    · rw [ih]
      rfl
    · exact ih s

end Sys2Proof.Machine
end

