-- ==== Sys2Proof/Laws/Encoding.lean ====
section
/-! SUPPORT. Each constructor's bits are matched by its own row of the table, which builds the instruction back: the part of
the agreement of decoder and encoder that is one lemma per constructor. -/
set_option linter.unusedSimpArgs false
namespace Sys2Proof

/-! ### Fields of appended bits -/

/-- A masked append is its two masked halves. -/
theorem masked_append {v w : Nat} (x : BitVec v) (y : BitVec w) (m b : BitVec (v + w)) :
    (x ++ y) &&& m = b ↔ x &&& m.extractLsb' w v = b.extractLsb' w v ∧ y &&& m.extractLsb' 0 w = b.extractLsb' 0 w := by
  constructor
  · rintro rfl
    constructor
    · apply BitVec.eq_of_getLsbD_eq
      intro i hi
      simp only [BitVec.getLsbD_and, BitVec.getLsbD_extractLsb', BitVec.getLsbD_append]
      rw [if_neg (by omega)]
      simp [hi]
    · apply BitVec.eq_of_getLsbD_eq
      intro i hi
      simp only [BitVec.getLsbD_and, BitVec.getLsbD_extractLsb', BitVec.getLsbD_append]
      simp [hi]
  · rintro ⟨h1, h2⟩
    apply BitVec.eq_of_getLsbD_eq
    intro i hi
    simp only [BitVec.getLsbD_and, BitVec.getLsbD_append]
    by_cases h : i < w
    · have := congrArg (fun z : BitVec w => z.getLsbD i) h2
      simp only [BitVec.getLsbD_and, BitVec.getLsbD_extractLsb', h] at this
      simpa [h] using this
    · have := congrArg (fun z : BitVec v => z.getLsbD (i - w)) h1
      have hv : i - w < v := by omega
      have e : w + (i - w) = i := by omega
      simp only [BitVec.getLsbD_and, BitVec.getLsbD_extractLsb', hv, e] at this
      simpa [h] using this

theorem getLsbD_append_lo {v w k : Nat} (x : BitVec v) (y : BitVec w) (h : k < w) : (x ++ y).getLsbD k = y.getLsbD k := by
  rw [BitVec.getLsbD_append, if_pos h]

theorem getLsbD_append_hi {v w k : Nat} (x : BitVec v) (y : BitVec w) (h : w ≤ k) :
    (x ++ y).getLsbD k = x.getLsbD (k - w) := by
  rw [BitVec.getLsbD_append, if_neg (by omega)]

theorem extract_whole {w : Nat} (x : BitVec w) : x.extractLsb' 0 w = x := by
  apply BitVec.eq_of_getLsbD_eq
  intro i hi
  simp [hi]

theorem Cond.ofBits_toBits (c : Cond) : Cond.ofBits c.toBits = c := by cases c <;> rfl

theorem ShiftType.ofBits_toBits (t : ShiftType) : ShiftType.ofBits t.toBits = t := by cases t <;> rfl

theorem Psr.ofBit_toBits (p : Psr) : Psr.ofBit (p.toBits.getLsbD 0) = p := by cases p <;> rfl

theorem regBits_toFin (r : Reg) : (regBits r).toFin = r := rfl

theorem lowRegBits_toFin (r : LowReg) : (lowRegBits r).toFin = r := rfl

theorem highBit_lowBits (r : Reg) : (highBit r ++ lowBits r).toFin = r := by revert r; decide

/-! ### The constructors, group by group -/

/-- `i`'s bits are matched by a row of the table that is marked V4T_EXTRAS exactly when `i` needs it and that builds `i`. -/
def Instr.HasRow (i : Instr) : Prop :=
  match encode i with
  | .arm w => ∃ r, r ∈ armRows ∧ w &&& r.mask = r.bits ∧ r.extras = i.needsExtras ∧ r.build w = i
  | .thumb h => ∃ r, r ∈ thumbRows ∧ h &&& r.mask = r.bits ∧ r.extras = i.needsExtras ∧ r.build h = i

theorem hasRow_andI_to_subS :
    (∀ c sf rn rd rot imm8, (Instr.andI c sf rn rd rot imm8).HasRow) ∧
    (∀ c sf rn rd amount ty rm, (Instr.andR c sf rn rd amount ty rm).HasRow) ∧
    (∀ c sf rn rd rs ty rm, (Instr.andS c sf rn rd rs ty rm).HasRow) ∧
    (∀ c sf rn rd rot imm8, (Instr.eorI c sf rn rd rot imm8).HasRow) ∧
    (∀ c sf rn rd amount ty rm, (Instr.eorR c sf rn rd amount ty rm).HasRow) ∧
    (∀ c sf rn rd rs ty rm, (Instr.eorS c sf rn rd rs ty rm).HasRow) ∧
    (∀ c sf rn rd rot imm8, (Instr.subI c sf rn rd rot imm8).HasRow) ∧
    (∀ c sf rn rd amount ty rm, (Instr.subR c sf rn rd amount ty rm).HasRow) ∧
    (∀ c sf rn rd rs ty rm, (Instr.subS c sf rn rd rs ty rm).HasRow) := by
  refine ⟨fun _ _ _ _ _ _ => ⟨armRows[0], List.getElem_mem _, ?_, rfl, (show Instr.andI _ _ _ _ _ _ = _ from ?_)⟩,
    fun _ _ _ _ _ _ _ => ⟨armRows[1], List.getElem_mem _, ?_, rfl, (show Instr.andR _ _ _ _ _ _ _ = _ from ?_)⟩,
    fun _ _ _ _ _ _ _ => ⟨armRows[2], List.getElem_mem _, ?_, rfl, (show Instr.andS _ _ _ _ _ _ _ = _ from ?_)⟩,
    fun _ _ _ _ _ _ => ⟨armRows[3], List.getElem_mem _, ?_, rfl, (show Instr.eorI _ _ _ _ _ _ = _ from ?_)⟩,
    fun _ _ _ _ _ _ _ => ⟨armRows[4], List.getElem_mem _, ?_, rfl, (show Instr.eorR _ _ _ _ _ _ _ = _ from ?_)⟩,
    fun _ _ _ _ _ _ _ => ⟨armRows[5], List.getElem_mem _, ?_, rfl, (show Instr.eorS _ _ _ _ _ _ _ = _ from ?_)⟩,
    fun _ _ _ _ _ _ => ⟨armRows[6], List.getElem_mem _, ?_, rfl, (show Instr.subI _ _ _ _ _ _ = _ from ?_)⟩,
    fun _ _ _ _ _ _ _ => ⟨armRows[7], List.getElem_mem _, ?_, rfl, (show Instr.subR _ _ _ _ _ _ _ = _ from ?_)⟩,
    fun _ _ _ _ _ _ _ => ⟨armRows[8], List.getElem_mem _, ?_, rfl, (show Instr.subS _ _ _ _ _ _ _ = _ from ?_)⟩⟩
  all_goals first
    | (refine (masked_append _ _ _ _).2 ⟨?_, ?_⟩
       repeat' (first | rfl | exact BitVec.and_zero | refine (masked_append _ _ _ _).2 ⟨?_, ?_⟩))
    | simp (disch := decide) only [condAt, regAt, shiftAt, psrAt, lowAt, highAt, BitVec.extractLsb'_append_eq_of_add_le,
        BitVec.extractLsb'_append_eq_of_le, getLsbD_append_lo, getLsbD_append_hi, Nat.reduceSub, extract_whole,
        Cond.ofBits_toBits, ShiftType.ofBits_toBits, Psr.ofBit_toBits, regBits_toFin, lowRegBits_toFin, highBit_lowBits,
        BitVec.getLsbD_ofBool, decide_true, Bool.true_and]

theorem hasRow_rsbI_to_adcS :
    (∀ c sf rn rd rot imm8, (Instr.rsbI c sf rn rd rot imm8).HasRow) ∧
    (∀ c sf rn rd amount ty rm, (Instr.rsbR c sf rn rd amount ty rm).HasRow) ∧
    (∀ c sf rn rd rs ty rm, (Instr.rsbS c sf rn rd rs ty rm).HasRow) ∧
    (∀ c sf rn rd rot imm8, (Instr.addI c sf rn rd rot imm8).HasRow) ∧
    (∀ c sf rn rd amount ty rm, (Instr.addR c sf rn rd amount ty rm).HasRow) ∧
    (∀ c sf rn rd rs ty rm, (Instr.addS c sf rn rd rs ty rm).HasRow) ∧
    (∀ c sf rn rd rot imm8, (Instr.adcI c sf rn rd rot imm8).HasRow) ∧
    (∀ c sf rn rd amount ty rm, (Instr.adcR c sf rn rd amount ty rm).HasRow) ∧
    (∀ c sf rn rd rs ty rm, (Instr.adcS c sf rn rd rs ty rm).HasRow) := by
  refine ⟨fun _ _ _ _ _ _ => ⟨armRows[9], List.getElem_mem _, ?_, rfl, (show Instr.rsbI _ _ _ _ _ _ = _ from ?_)⟩,
    fun _ _ _ _ _ _ _ => ⟨armRows[10], List.getElem_mem _, ?_, rfl, (show Instr.rsbR _ _ _ _ _ _ _ = _ from ?_)⟩,
    fun _ _ _ _ _ _ _ => ⟨armRows[11], List.getElem_mem _, ?_, rfl, (show Instr.rsbS _ _ _ _ _ _ _ = _ from ?_)⟩,
    fun _ _ _ _ _ _ => ⟨armRows[12], List.getElem_mem _, ?_, rfl, (show Instr.addI _ _ _ _ _ _ = _ from ?_)⟩,
    fun _ _ _ _ _ _ _ => ⟨armRows[13], List.getElem_mem _, ?_, rfl, (show Instr.addR _ _ _ _ _ _ _ = _ from ?_)⟩,
    fun _ _ _ _ _ _ _ => ⟨armRows[14], List.getElem_mem _, ?_, rfl, (show Instr.addS _ _ _ _ _ _ _ = _ from ?_)⟩,
    fun _ _ _ _ _ _ => ⟨armRows[15], List.getElem_mem _, ?_, rfl, (show Instr.adcI _ _ _ _ _ _ = _ from ?_)⟩,
    fun _ _ _ _ _ _ _ => ⟨armRows[16], List.getElem_mem _, ?_, rfl, (show Instr.adcR _ _ _ _ _ _ _ = _ from ?_)⟩,
    fun _ _ _ _ _ _ _ => ⟨armRows[17], List.getElem_mem _, ?_, rfl, (show Instr.adcS _ _ _ _ _ _ _ = _ from ?_)⟩⟩
  all_goals first
    | (refine (masked_append _ _ _ _).2 ⟨?_, ?_⟩
       repeat' (first | rfl | exact BitVec.and_zero | refine (masked_append _ _ _ _).2 ⟨?_, ?_⟩))
    | simp (disch := decide) only [condAt, regAt, shiftAt, psrAt, lowAt, highAt, BitVec.extractLsb'_append_eq_of_add_le,
        BitVec.extractLsb'_append_eq_of_le, getLsbD_append_lo, getLsbD_append_hi, Nat.reduceSub, extract_whole,
        Cond.ofBits_toBits, ShiftType.ofBits_toBits, Psr.ofBit_toBits, regBits_toFin, lowRegBits_toFin, highBit_lowBits,
        BitVec.getLsbD_ofBool, decide_true, Bool.true_and]

theorem hasRow_sbcI_to_tstS :
    (∀ c sf rn rd rot imm8, (Instr.sbcI c sf rn rd rot imm8).HasRow) ∧
    (∀ c sf rn rd amount ty rm, (Instr.sbcR c sf rn rd amount ty rm).HasRow) ∧
    (∀ c sf rn rd rs ty rm, (Instr.sbcS c sf rn rd rs ty rm).HasRow) ∧
    (∀ c sf rn rd rot imm8, (Instr.rscI c sf rn rd rot imm8).HasRow) ∧
    (∀ c sf rn rd amount ty rm, (Instr.rscR c sf rn rd amount ty rm).HasRow) ∧
    (∀ c sf rn rd rs ty rm, (Instr.rscS c sf rn rd rs ty rm).HasRow) ∧
    (∀ c rn rot imm8, (Instr.tstI c rn rot imm8).HasRow) ∧
    (∀ c rn amount ty rm, (Instr.tstR c rn amount ty rm).HasRow) ∧
    (∀ c rn rs ty rm, (Instr.tstS c rn rs ty rm).HasRow) := by
  refine ⟨fun _ _ _ _ _ _ => ⟨armRows[18], List.getElem_mem _, ?_, rfl, (show Instr.sbcI _ _ _ _ _ _ = _ from ?_)⟩,
    fun _ _ _ _ _ _ _ => ⟨armRows[19], List.getElem_mem _, ?_, rfl, (show Instr.sbcR _ _ _ _ _ _ _ = _ from ?_)⟩,
    fun _ _ _ _ _ _ _ => ⟨armRows[20], List.getElem_mem _, ?_, rfl, (show Instr.sbcS _ _ _ _ _ _ _ = _ from ?_)⟩,
    fun _ _ _ _ _ _ => ⟨armRows[21], List.getElem_mem _, ?_, rfl, (show Instr.rscI _ _ _ _ _ _ = _ from ?_)⟩,
    fun _ _ _ _ _ _ _ => ⟨armRows[22], List.getElem_mem _, ?_, rfl, (show Instr.rscR _ _ _ _ _ _ _ = _ from ?_)⟩,
    fun _ _ _ _ _ _ _ => ⟨armRows[23], List.getElem_mem _, ?_, rfl, (show Instr.rscS _ _ _ _ _ _ _ = _ from ?_)⟩,
    fun _ _ _ _ => ⟨armRows[24], List.getElem_mem _, ?_, rfl, (show Instr.tstI _ _ _ _ = _ from ?_)⟩,
    fun _ _ _ _ _ => ⟨armRows[25], List.getElem_mem _, ?_, rfl, (show Instr.tstR _ _ _ _ _ = _ from ?_)⟩,
    fun _ _ _ _ _ => ⟨armRows[26], List.getElem_mem _, ?_, rfl, (show Instr.tstS _ _ _ _ _ = _ from ?_)⟩⟩
  all_goals first
    | (refine (masked_append _ _ _ _).2 ⟨?_, ?_⟩
       repeat' (first | rfl | exact BitVec.and_zero | refine (masked_append _ _ _ _).2 ⟨?_, ?_⟩))
    | simp (disch := decide) only [condAt, regAt, shiftAt, psrAt, lowAt, highAt, BitVec.extractLsb'_append_eq_of_add_le,
        BitVec.extractLsb'_append_eq_of_le, getLsbD_append_lo, getLsbD_append_hi, Nat.reduceSub, extract_whole,
        Cond.ofBits_toBits, ShiftType.ofBits_toBits, Psr.ofBit_toBits, regBits_toFin, lowRegBits_toFin, highBit_lowBits,
        BitVec.getLsbD_ofBool, decide_true, Bool.true_and]

theorem hasRow_teqI_to_cmnS :
    (∀ c rn rot imm8, (Instr.teqI c rn rot imm8).HasRow) ∧
    (∀ c rn amount ty rm, (Instr.teqR c rn amount ty rm).HasRow) ∧
    (∀ c rn rs ty rm, (Instr.teqS c rn rs ty rm).HasRow) ∧
    (∀ c rn rot imm8, (Instr.cmpI c rn rot imm8).HasRow) ∧
    (∀ c rn amount ty rm, (Instr.cmpR c rn amount ty rm).HasRow) ∧
    (∀ c rn rs ty rm, (Instr.cmpS c rn rs ty rm).HasRow) ∧
    (∀ c rn rot imm8, (Instr.cmnI c rn rot imm8).HasRow) ∧
    (∀ c rn amount ty rm, (Instr.cmnR c rn amount ty rm).HasRow) ∧
    (∀ c rn rs ty rm, (Instr.cmnS c rn rs ty rm).HasRow) := by
  refine ⟨fun _ _ _ _ => ⟨armRows[27], List.getElem_mem _, ?_, rfl, (show Instr.teqI _ _ _ _ = _ from ?_)⟩,
    fun _ _ _ _ _ => ⟨armRows[28], List.getElem_mem _, ?_, rfl, (show Instr.teqR _ _ _ _ _ = _ from ?_)⟩,
    fun _ _ _ _ _ => ⟨armRows[29], List.getElem_mem _, ?_, rfl, (show Instr.teqS _ _ _ _ _ = _ from ?_)⟩,
    fun _ _ _ _ => ⟨armRows[30], List.getElem_mem _, ?_, rfl, (show Instr.cmpI _ _ _ _ = _ from ?_)⟩,
    fun _ _ _ _ _ => ⟨armRows[31], List.getElem_mem _, ?_, rfl, (show Instr.cmpR _ _ _ _ _ = _ from ?_)⟩,
    fun _ _ _ _ _ => ⟨armRows[32], List.getElem_mem _, ?_, rfl, (show Instr.cmpS _ _ _ _ _ = _ from ?_)⟩,
    fun _ _ _ _ => ⟨armRows[33], List.getElem_mem _, ?_, rfl, (show Instr.cmnI _ _ _ _ = _ from ?_)⟩,
    fun _ _ _ _ _ => ⟨armRows[34], List.getElem_mem _, ?_, rfl, (show Instr.cmnR _ _ _ _ _ = _ from ?_)⟩,
    fun _ _ _ _ _ => ⟨armRows[35], List.getElem_mem _, ?_, rfl, (show Instr.cmnS _ _ _ _ _ = _ from ?_)⟩⟩
  all_goals first
    | (refine (masked_append _ _ _ _).2 ⟨?_, ?_⟩
       repeat' (first | rfl | exact BitVec.and_zero | refine (masked_append _ _ _ _).2 ⟨?_, ?_⟩))
    | simp (disch := decide) only [condAt, regAt, shiftAt, psrAt, lowAt, highAt, BitVec.extractLsb'_append_eq_of_add_le,
        BitVec.extractLsb'_append_eq_of_le, getLsbD_append_lo, getLsbD_append_hi, Nat.reduceSub, extract_whole,
        Cond.ofBits_toBits, ShiftType.ofBits_toBits, Psr.ofBit_toBits, regBits_toFin, lowRegBits_toFin, highBit_lowBits,
        BitVec.getLsbD_ofBool, decide_true, Bool.true_and]

theorem hasRow_orrI_to_bicS :
    (∀ c sf rn rd rot imm8, (Instr.orrI c sf rn rd rot imm8).HasRow) ∧
    (∀ c sf rn rd amount ty rm, (Instr.orrR c sf rn rd amount ty rm).HasRow) ∧
    (∀ c sf rn rd rs ty rm, (Instr.orrS c sf rn rd rs ty rm).HasRow) ∧
    (∀ c sf rd rot imm8, (Instr.movI c sf rd rot imm8).HasRow) ∧
    (∀ c sf rd amount ty rm, (Instr.movR c sf rd amount ty rm).HasRow) ∧
    (∀ c sf rd rs ty rm, (Instr.movS c sf rd rs ty rm).HasRow) ∧
    (∀ c sf rn rd rot imm8, (Instr.bicI c sf rn rd rot imm8).HasRow) ∧
    (∀ c sf rn rd amount ty rm, (Instr.bicR c sf rn rd amount ty rm).HasRow) ∧
    (∀ c sf rn rd rs ty rm, (Instr.bicS c sf rn rd rs ty rm).HasRow) := by
  refine ⟨fun _ _ _ _ _ _ => ⟨armRows[36], List.getElem_mem _, ?_, rfl, (show Instr.orrI _ _ _ _ _ _ = _ from ?_)⟩,
    fun _ _ _ _ _ _ _ => ⟨armRows[37], List.getElem_mem _, ?_, rfl, (show Instr.orrR _ _ _ _ _ _ _ = _ from ?_)⟩,
    fun _ _ _ _ _ _ _ => ⟨armRows[38], List.getElem_mem _, ?_, rfl, (show Instr.orrS _ _ _ _ _ _ _ = _ from ?_)⟩,
    fun _ _ _ _ _ => ⟨armRows[39], List.getElem_mem _, ?_, rfl, (show Instr.movI _ _ _ _ _ = _ from ?_)⟩,
    fun _ _ _ _ _ _ => ⟨armRows[40], List.getElem_mem _, ?_, rfl, (show Instr.movR _ _ _ _ _ _ = _ from ?_)⟩,
    fun _ _ _ _ _ _ => ⟨armRows[41], List.getElem_mem _, ?_, rfl, (show Instr.movS _ _ _ _ _ _ = _ from ?_)⟩,
    fun _ _ _ _ _ _ => ⟨armRows[42], List.getElem_mem _, ?_, rfl, (show Instr.bicI _ _ _ _ _ _ = _ from ?_)⟩,
    fun _ _ _ _ _ _ _ => ⟨armRows[43], List.getElem_mem _, ?_, rfl, (show Instr.bicR _ _ _ _ _ _ _ = _ from ?_)⟩,
    fun _ _ _ _ _ _ _ => ⟨armRows[44], List.getElem_mem _, ?_, rfl, (show Instr.bicS _ _ _ _ _ _ _ = _ from ?_)⟩⟩
  all_goals first
    | (refine (masked_append _ _ _ _).2 ⟨?_, ?_⟩
       repeat' (first | rfl | exact BitVec.and_zero | refine (masked_append _ _ _ _).2 ⟨?_, ?_⟩))
    | simp (disch := decide) only [condAt, regAt, shiftAt, psrAt, lowAt, highAt, BitVec.extractLsb'_append_eq_of_add_le,
        BitVec.extractLsb'_append_eq_of_le, getLsbD_append_lo, getLsbD_append_hi, Nat.reduceSub, extract_whole,
        Cond.ofBits_toBits, ShiftType.ofBits_toBits, Psr.ofBit_toBits, regBits_toFin, lowRegBits_toFin, highBit_lowBits,
        BitVec.getLsbD_ofBool, decide_true, Bool.true_and]

theorem hasRow_mvnI_to_mla :
    (∀ c sf rd rot imm8, (Instr.mvnI c sf rd rot imm8).HasRow) ∧
    (∀ c sf rd amount ty rm, (Instr.mvnR c sf rd amount ty rm).HasRow) ∧
    (∀ c sf rd rs ty rm, (Instr.mvnS c sf rd rs ty rm).HasRow) ∧
    (∀ c psr rd, (Instr.mrs c psr rd).HasRow) ∧
    (∀ c psr mask rm, (Instr.msrR c psr mask rm).HasRow) ∧
    (∀ c psr mask rot imm8, (Instr.msrI c psr mask rot imm8).HasRow) ∧
    (∀ c rm, (Instr.bx c rm).HasRow) ∧
    (∀ c sf rd rs rm, (Instr.mul c sf rd rs rm).HasRow) ∧
    (∀ c sf rd rn rs rm, (Instr.mla c sf rd rn rs rm).HasRow) := by
  refine ⟨fun _ _ _ _ _ => ⟨armRows[45], List.getElem_mem _, ?_, rfl, (show Instr.mvnI _ _ _ _ _ = _ from ?_)⟩,
    fun _ _ _ _ _ _ => ⟨armRows[46], List.getElem_mem _, ?_, rfl, (show Instr.mvnR _ _ _ _ _ _ = _ from ?_)⟩,
    fun _ _ _ _ _ _ => ⟨armRows[47], List.getElem_mem _, ?_, rfl, (show Instr.mvnS _ _ _ _ _ _ = _ from ?_)⟩,
    fun _ _ _ => ⟨armRows[48], List.getElem_mem _, ?_, rfl, (show Instr.mrs _ _ _ = _ from ?_)⟩,
    fun _ _ _ _ => ⟨armRows[49], List.getElem_mem _, ?_, rfl, (show Instr.msrR _ _ _ _ = _ from ?_)⟩,
    fun _ _ _ _ _ => ⟨armRows[50], List.getElem_mem _, ?_, rfl, (show Instr.msrI _ _ _ _ _ = _ from ?_)⟩,
    fun _ _ => ⟨armRows[51], List.getElem_mem _, ?_, rfl, (show Instr.bx _ _ = _ from ?_)⟩,
    fun _ _ _ _ _ => ⟨armRows[52], List.getElem_mem _, ?_, rfl, (show Instr.mul _ _ _ _ _ = _ from ?_)⟩,
    fun _ _ _ _ _ _ => ⟨armRows[53], List.getElem_mem _, ?_, rfl, (show Instr.mla _ _ _ _ _ _ = _ from ?_)⟩⟩
  all_goals first
    | (refine (masked_append _ _ _ _).2 ⟨?_, ?_⟩
       repeat' (first | rfl | exact BitVec.and_zero | refine (masked_append _ _ _ _).2 ⟨?_, ?_⟩))
    | simp (disch := decide) only [condAt, regAt, shiftAt, psrAt, lowAt, highAt, BitVec.extractLsb'_append_eq_of_add_le,
        BitVec.extractLsb'_append_eq_of_le, getLsbD_append_lo, getLsbD_append_hi, Nat.reduceSub, extract_whole,
        Cond.ofBits_toBits, ShiftType.ofBits_toBits, Psr.ofBit_toBits, regBits_toFin, lowRegBits_toFin, highBit_lowBits,
        BitVec.getLsbD_ofBool, decide_true, Bool.true_and]

theorem hasRow_umull_to_ldrhR :
    (∀ c sf rdHi rdLo rs rm, (Instr.umull c sf rdHi rdLo rs rm).HasRow) ∧
    (∀ c sf rdHi rdLo rs rm, (Instr.umlal c sf rdHi rdLo rs rm).HasRow) ∧
    (∀ c sf rdHi rdLo rs rm, (Instr.smull c sf rdHi rdLo rs rm).HasRow) ∧
    (∀ c sf rdHi rdLo rs rm, (Instr.smlal c sf rdHi rdLo rs rm).HasRow) ∧
    (∀ c rn rd rm, (Instr.swp c rn rd rm).HasRow) ∧
    (∀ c rn rd rm, (Instr.swpb c rn rd rm).HasRow) ∧
    (∀ c p u w rn rd rm, (Instr.strhR c p u w rn rd rm).HasRow) ∧
    (∀ c p u w rn rd immHi immLo, (Instr.strhI c p u w rn rd immHi immLo).HasRow) ∧
    (∀ c p u w rn rd rm, (Instr.ldrhR c p u w rn rd rm).HasRow) := by
  refine ⟨fun _ _ _ _ _ _ => ⟨armRows[54], List.getElem_mem _, ?_, rfl, (show Instr.umull _ _ _ _ _ _ = _ from ?_)⟩,
    fun _ _ _ _ _ _ => ⟨armRows[55], List.getElem_mem _, ?_, rfl, (show Instr.umlal _ _ _ _ _ _ = _ from ?_)⟩,
    fun _ _ _ _ _ _ => ⟨armRows[56], List.getElem_mem _, ?_, rfl, (show Instr.smull _ _ _ _ _ _ = _ from ?_)⟩,
    fun _ _ _ _ _ _ => ⟨armRows[57], List.getElem_mem _, ?_, rfl, (show Instr.smlal _ _ _ _ _ _ = _ from ?_)⟩,
    fun _ _ _ _ => ⟨armRows[58], List.getElem_mem _, ?_, rfl, (show Instr.swp _ _ _ _ = _ from ?_)⟩,
    fun _ _ _ _ => ⟨armRows[59], List.getElem_mem _, ?_, rfl, (show Instr.swpb _ _ _ _ = _ from ?_)⟩,
    fun _ _ _ _ _ _ _ => ⟨armRows[60], List.getElem_mem _, ?_, rfl, (show Instr.strhR _ _ _ _ _ _ _ = _ from ?_)⟩,
    fun _ _ _ _ _ _ _ _ => ⟨armRows[61], List.getElem_mem _, ?_, rfl, (show Instr.strhI _ _ _ _ _ _ _ _ = _ from ?_)⟩,
    fun _ _ _ _ _ _ _ => ⟨armRows[62], List.getElem_mem _, ?_, rfl, (show Instr.ldrhR _ _ _ _ _ _ _ = _ from ?_)⟩⟩
  all_goals first
    | (refine (masked_append _ _ _ _).2 ⟨?_, ?_⟩
       repeat' (first | rfl | exact BitVec.and_zero | refine (masked_append _ _ _ _).2 ⟨?_, ?_⟩))
    | simp (disch := decide) only [condAt, regAt, shiftAt, psrAt, lowAt, highAt, BitVec.extractLsb'_append_eq_of_add_le,
        BitVec.extractLsb'_append_eq_of_le, getLsbD_append_lo, getLsbD_append_hi, Nat.reduceSub, extract_whole,
        Cond.ofBits_toBits, ShiftType.ofBits_toBits, Psr.ofBit_toBits, regBits_toFin, lowRegBits_toFin, highBit_lowBits,
        BitVec.getLsbD_ofBool, decide_true, Bool.true_and]

theorem hasRow_ldrhI_to_ldrbR :
    (∀ c p u w rn rd immHi immLo, (Instr.ldrhI c p u w rn rd immHi immLo).HasRow) ∧
    (∀ c p u w rn rd rm, (Instr.ldrsbR c p u w rn rd rm).HasRow) ∧
    (∀ c p u w rn rd immHi immLo, (Instr.ldrsbI c p u w rn rd immHi immLo).HasRow) ∧
    (∀ c p u w rn rd rm, (Instr.ldrshR c p u w rn rd rm).HasRow) ∧
    (∀ c p u w rn rd immHi immLo, (Instr.ldrshI c p u w rn rd immHi immLo).HasRow) ∧
    (∀ c p u w rn rd imm12, (Instr.ldrI c p u w rn rd imm12).HasRow) ∧
    (∀ c p u w rn rd amount ty rm, (Instr.ldrR c p u w rn rd amount ty rm).HasRow) ∧
    (∀ c p u w rn rd imm12, (Instr.ldrbI c p u w rn rd imm12).HasRow) ∧
    (∀ c p u w rn rd amount ty rm, (Instr.ldrbR c p u w rn rd amount ty rm).HasRow) := by
  refine ⟨fun _ _ _ _ _ _ _ _ => ⟨armRows[63], List.getElem_mem _, ?_, rfl, (show Instr.ldrhI _ _ _ _ _ _ _ _ = _ from ?_)⟩,
    fun _ _ _ _ _ _ _ => ⟨armRows[64], List.getElem_mem _, ?_, rfl, (show Instr.ldrsbR _ _ _ _ _ _ _ = _ from ?_)⟩,
    fun _ _ _ _ _ _ _ _ => ⟨armRows[65], List.getElem_mem _, ?_, rfl, (show Instr.ldrsbI _ _ _ _ _ _ _ _ = _ from ?_)⟩,
    fun _ _ _ _ _ _ _ => ⟨armRows[66], List.getElem_mem _, ?_, rfl, (show Instr.ldrshR _ _ _ _ _ _ _ = _ from ?_)⟩,
    fun _ _ _ _ _ _ _ _ => ⟨armRows[67], List.getElem_mem _, ?_, rfl, (show Instr.ldrshI _ _ _ _ _ _ _ _ = _ from ?_)⟩,
    fun _ _ _ _ _ _ _ => ⟨armRows[68], List.getElem_mem _, ?_, rfl, (show Instr.ldrI _ _ _ _ _ _ _ = _ from ?_)⟩,
    fun _ _ _ _ _ _ _ _ _ => ⟨armRows[69], List.getElem_mem _, ?_, rfl, (show Instr.ldrR _ _ _ _ _ _ _ _ _ = _ from ?_)⟩,
    fun _ _ _ _ _ _ _ => ⟨armRows[70], List.getElem_mem _, ?_, rfl, (show Instr.ldrbI _ _ _ _ _ _ _ = _ from ?_)⟩,
    fun _ _ _ _ _ _ _ _ _ => ⟨armRows[71], List.getElem_mem _, ?_, rfl, (show Instr.ldrbR _ _ _ _ _ _ _ _ _ = _ from ?_)⟩⟩
  all_goals first
    | (refine (masked_append _ _ _ _).2 ⟨?_, ?_⟩
       repeat' (first | rfl | exact BitVec.and_zero | refine (masked_append _ _ _ _).2 ⟨?_, ?_⟩))
    | simp (disch := decide) only [condAt, regAt, shiftAt, psrAt, lowAt, highAt, BitVec.extractLsb'_append_eq_of_add_le,
        BitVec.extractLsb'_append_eq_of_le, getLsbD_append_lo, getLsbD_append_hi, Nat.reduceSub, extract_whole,
        Cond.ofBits_toBits, ShiftType.ofBits_toBits, Psr.ofBit_toBits, regBits_toFin, lowRegBits_toFin, highBit_lowBits,
        BitVec.getLsbD_ofBool, decide_true, Bool.true_and]

theorem hasRow_strI_to_bl :
    (∀ c p u w rn rd imm12, (Instr.strI c p u w rn rd imm12).HasRow) ∧
    (∀ c p u w rn rd amount ty rm, (Instr.strR c p u w rn rd amount ty rm).HasRow) ∧
    (∀ c p u w rn rd imm12, (Instr.strbI c p u w rn rd imm12).HasRow) ∧
    (∀ c p u w rn rd amount ty rm, (Instr.strbR c p u w rn rd amount ty rm).HasRow) ∧
    (∀ c hi lo, (Instr.undefined c hi lo).HasRow) ∧
    (∀ c p u hat w rn list, (Instr.ldm c p u hat w rn list).HasRow) ∧
    (∀ c p u hat w rn list, (Instr.stm c p u hat w rn list).HasRow) ∧
    (∀ c offset24, (Instr.b c offset24).HasRow) ∧
    (∀ c offset24, (Instr.bl c offset24).HasRow) := by
  refine ⟨fun _ _ _ _ _ _ _ => ⟨armRows[72], List.getElem_mem _, ?_, rfl, (show Instr.strI _ _ _ _ _ _ _ = _ from ?_)⟩,
    fun _ _ _ _ _ _ _ _ _ => ⟨armRows[73], List.getElem_mem _, ?_, rfl, (show Instr.strR _ _ _ _ _ _ _ _ _ = _ from ?_)⟩,
    fun _ _ _ _ _ _ _ => ⟨armRows[74], List.getElem_mem _, ?_, rfl, (show Instr.strbI _ _ _ _ _ _ _ = _ from ?_)⟩,
    fun _ _ _ _ _ _ _ _ _ => ⟨armRows[75], List.getElem_mem _, ?_, rfl, (show Instr.strbR _ _ _ _ _ _ _ _ _ = _ from ?_)⟩,
    fun _ _ _ => ⟨armRows[76], List.getElem_mem _, ?_, rfl, (show Instr.undefined _ _ _ = _ from ?_)⟩,
    fun _ _ _ _ _ _ _ => ⟨armRows[77], List.getElem_mem _, ?_, rfl, (show Instr.ldm _ _ _ _ _ _ _ = _ from ?_)⟩,
    fun _ _ _ _ _ _ _ => ⟨armRows[78], List.getElem_mem _, ?_, rfl, (show Instr.stm _ _ _ _ _ _ _ = _ from ?_)⟩,
    fun _ _ => ⟨armRows[79], List.getElem_mem _, ?_, rfl, (show Instr.b _ _ = _ from ?_)⟩,
    fun _ _ => ⟨armRows[80], List.getElem_mem _, ?_, rfl, (show Instr.bl _ _ = _ from ?_)⟩⟩
  all_goals first
    | (refine (masked_append _ _ _ _).2 ⟨?_, ?_⟩
       repeat' (first | rfl | exact BitVec.and_zero | refine (masked_append _ _ _ _).2 ⟨?_, ?_⟩))
    | simp (disch := decide) only [condAt, regAt, shiftAt, psrAt, lowAt, highAt, BitVec.extractLsb'_append_eq_of_add_le,
        BitVec.extractLsb'_append_eq_of_le, getLsbD_append_lo, getLsbD_append_hi, Nat.reduceSub, extract_whole,
        Cond.ofBits_toBits, ShiftType.ofBits_toBits, Psr.ofBit_toBits, regBits_toFin, lowRegBits_toFin, highBit_lowBits,
        BitVec.getLsbD_ofBool, decide_true, Bool.true_and]

theorem hasRow_ldc_to_swi :
    (∀ c p u n w rn crd cp offset8, (Instr.ldc c p u n w rn crd cp offset8).HasRow) ∧
    (∀ c p u n w rn crd cp offset8, (Instr.stc c p u n w rn crd cp offset8).HasRow) ∧
    (∀ c opc1 crn crd cp opc2 crm, (Instr.cdp c opc1 crn crd cp opc2 crm).HasRow) ∧
    (∀ c opc1 crn rd cp opc2 crm, (Instr.mrc c opc1 crn rd cp opc2 crm).HasRow) ∧
    (∀ c opc1 crn rd cp opc2 crm, (Instr.mcr c opc1 crn rd cp opc2 crm).HasRow) ∧
    (∀ c comment24, (Instr.swi c comment24).HasRow) := by
  refine ⟨fun _ _ _ _ _ _ _ _ _ => ⟨armRows[81], List.getElem_mem _, ?_, rfl, (show Instr.ldc _ _ _ _ _ _ _ _ _ = _ from ?_)⟩,
    fun _ _ _ _ _ _ _ _ _ => ⟨armRows[82], List.getElem_mem _, ?_, rfl, (show Instr.stc _ _ _ _ _ _ _ _ _ = _ from ?_)⟩,
    fun _ _ _ _ _ _ _ => ⟨armRows[83], List.getElem_mem _, ?_, rfl, (show Instr.cdp _ _ _ _ _ _ _ = _ from ?_)⟩,
    fun _ _ _ _ _ _ _ => ⟨armRows[84], List.getElem_mem _, ?_, rfl, (show Instr.mrc _ _ _ _ _ _ _ = _ from ?_)⟩,
    fun _ _ _ _ _ _ _ => ⟨armRows[85], List.getElem_mem _, ?_, rfl, (show Instr.mcr _ _ _ _ _ _ _ = _ from ?_)⟩,
    fun _ _ => ⟨armRows[86], List.getElem_mem _, ?_, rfl, (show Instr.swi _ _ = _ from ?_)⟩⟩
  all_goals first
    | (refine (masked_append _ _ _ _).2 ⟨?_, ?_⟩
       repeat' (first | rfl | exact BitVec.and_zero | refine (masked_append _ _ _ _).2 ⟨?_, ?_⟩))
    | simp (disch := decide) only [condAt, regAt, shiftAt, psrAt, lowAt, highAt, BitVec.extractLsb'_append_eq_of_add_le,
        BitVec.extractLsb'_append_eq_of_le, getLsbD_append_lo, getLsbD_append_hi, Nat.reduceSub, extract_whole,
        Cond.ofBits_toBits, ShiftType.ofBits_toBits, Psr.ofBit_toBits, regBits_toFin, lowRegBits_toFin, highBit_lowBits,
        BitVec.getLsbD_ofBool, decide_true, Bool.true_and]

theorem hasRow_tLslI_to_tCmpI :
    (∀ offset5 rs rd, (Instr.tLslI offset5 rs rd).HasRow) ∧
    (∀ offset5 rs rd, (Instr.tLsrI offset5 rs rd).HasRow) ∧
    (∀ offset5 rs rd, (Instr.tAsrI offset5 rs rd).HasRow) ∧
    (∀ rn rs rd, (Instr.tAddR rn rs rd).HasRow) ∧
    (∀ rn rs rd, (Instr.tSubR rn rs rd).HasRow) ∧
    (∀ imm3 rs rd, (Instr.tAddI3 imm3 rs rd).HasRow) ∧
    (∀ imm3 rs rd, (Instr.tSubI3 imm3 rs rd).HasRow) ∧
    (∀ rd imm8, (Instr.tMovI rd imm8).HasRow) ∧
    (∀ rd imm8, (Instr.tCmpI rd imm8).HasRow) := by
  refine ⟨fun _ _ _ => ⟨thumbRows[0], List.getElem_mem _, ?_, rfl, (show Instr.tLslI _ _ _ = _ from ?_)⟩,
    fun _ _ _ => ⟨thumbRows[1], List.getElem_mem _, ?_, rfl, (show Instr.tLsrI _ _ _ = _ from ?_)⟩,
    fun _ _ _ => ⟨thumbRows[2], List.getElem_mem _, ?_, rfl, (show Instr.tAsrI _ _ _ = _ from ?_)⟩,
    fun _ _ _ => ⟨thumbRows[3], List.getElem_mem _, ?_, rfl, (show Instr.tAddR _ _ _ = _ from ?_)⟩,
    fun _ _ _ => ⟨thumbRows[4], List.getElem_mem _, ?_, rfl, (show Instr.tSubR _ _ _ = _ from ?_)⟩,
    fun _ _ _ => ⟨thumbRows[5], List.getElem_mem _, ?_, rfl, (show Instr.tAddI3 _ _ _ = _ from ?_)⟩,
    fun _ _ _ => ⟨thumbRows[6], List.getElem_mem _, ?_, rfl, (show Instr.tSubI3 _ _ _ = _ from ?_)⟩,
    fun _ _ => ⟨thumbRows[7], List.getElem_mem _, ?_, rfl, (show Instr.tMovI _ _ = _ from ?_)⟩,
    fun _ _ => ⟨thumbRows[8], List.getElem_mem _, ?_, rfl, (show Instr.tCmpI _ _ = _ from ?_)⟩⟩
  all_goals first
    | (refine (masked_append _ _ _ _).2 ⟨?_, ?_⟩
       repeat' (first | rfl | exact BitVec.and_zero | refine (masked_append _ _ _ _).2 ⟨?_, ?_⟩))
    | simp (disch := decide) only [condAt, regAt, shiftAt, psrAt, lowAt, highAt, BitVec.extractLsb'_append_eq_of_add_le,
        BitVec.extractLsb'_append_eq_of_le, getLsbD_append_lo, getLsbD_append_hi, Nat.reduceSub, extract_whole,
        Cond.ofBits_toBits, ShiftType.ofBits_toBits, Psr.ofBit_toBits, regBits_toFin, lowRegBits_toFin, highBit_lowBits,
        BitVec.getLsbD_ofBool, decide_true, Bool.true_and]

theorem hasRow_tAddI8_to_tSbc :
    (∀ rd imm8, (Instr.tAddI8 rd imm8).HasRow) ∧
    (∀ rd imm8, (Instr.tSubI8 rd imm8).HasRow) ∧
    (∀ rs rd, (Instr.tAnd rs rd).HasRow) ∧
    (∀ rs rd, (Instr.tEor rs rd).HasRow) ∧
    (∀ rs rd, (Instr.tLslR rs rd).HasRow) ∧
    (∀ rs rd, (Instr.tLsrR rs rd).HasRow) ∧
    (∀ rs rd, (Instr.tAsrR rs rd).HasRow) ∧
    (∀ rs rd, (Instr.tAdc rs rd).HasRow) ∧
    (∀ rs rd, (Instr.tSbc rs rd).HasRow) := by
  refine ⟨fun _ _ => ⟨thumbRows[9], List.getElem_mem _, ?_, rfl, (show Instr.tAddI8 _ _ = _ from ?_)⟩,
    fun _ _ => ⟨thumbRows[10], List.getElem_mem _, ?_, rfl, (show Instr.tSubI8 _ _ = _ from ?_)⟩,
    fun _ _ => ⟨thumbRows[11], List.getElem_mem _, ?_, rfl, (show Instr.tAnd _ _ = _ from ?_)⟩,
    fun _ _ => ⟨thumbRows[12], List.getElem_mem _, ?_, rfl, (show Instr.tEor _ _ = _ from ?_)⟩,
    fun _ _ => ⟨thumbRows[13], List.getElem_mem _, ?_, rfl, (show Instr.tLslR _ _ = _ from ?_)⟩,
    fun _ _ => ⟨thumbRows[14], List.getElem_mem _, ?_, rfl, (show Instr.tLsrR _ _ = _ from ?_)⟩,
    fun _ _ => ⟨thumbRows[15], List.getElem_mem _, ?_, rfl, (show Instr.tAsrR _ _ = _ from ?_)⟩,
    fun _ _ => ⟨thumbRows[16], List.getElem_mem _, ?_, rfl, (show Instr.tAdc _ _ = _ from ?_)⟩,
    fun _ _ => ⟨thumbRows[17], List.getElem_mem _, ?_, rfl, (show Instr.tSbc _ _ = _ from ?_)⟩⟩
  all_goals first
    | (refine (masked_append _ _ _ _).2 ⟨?_, ?_⟩
       repeat' (first | rfl | exact BitVec.and_zero | refine (masked_append _ _ _ _).2 ⟨?_, ?_⟩))
    | simp (disch := decide) only [condAt, regAt, shiftAt, psrAt, lowAt, highAt, BitVec.extractLsb'_append_eq_of_add_le,
        BitVec.extractLsb'_append_eq_of_le, getLsbD_append_lo, getLsbD_append_hi, Nat.reduceSub, extract_whole,
        Cond.ofBits_toBits, ShiftType.ofBits_toBits, Psr.ofBit_toBits, regBits_toFin, lowRegBits_toFin, highBit_lowBits,
        BitVec.getLsbD_ofBool, decide_true, Bool.true_and]

theorem hasRow_tRorR_to_tMvn :
    (∀ rs rd, (Instr.tRorR rs rd).HasRow) ∧
    (∀ rs rd, (Instr.tTst rs rd).HasRow) ∧
    (∀ rs rd, (Instr.tNeg rs rd).HasRow) ∧
    (∀ rs rd, (Instr.tCmpR rs rd).HasRow) ∧
    (∀ rs rd, (Instr.tCmn rs rd).HasRow) ∧
    (∀ rs rd, (Instr.tOrr rs rd).HasRow) ∧
    (∀ rs rd, (Instr.tMul rs rd).HasRow) ∧
    (∀ rs rd, (Instr.tBic rs rd).HasRow) ∧
    (∀ rs rd, (Instr.tMvn rs rd).HasRow) := by
  refine ⟨fun _ _ => ⟨thumbRows[18], List.getElem_mem _, ?_, rfl, (show Instr.tRorR _ _ = _ from ?_)⟩,
    fun _ _ => ⟨thumbRows[19], List.getElem_mem _, ?_, rfl, (show Instr.tTst _ _ = _ from ?_)⟩,
    fun _ _ => ⟨thumbRows[20], List.getElem_mem _, ?_, rfl, (show Instr.tNeg _ _ = _ from ?_)⟩,
    fun _ _ => ⟨thumbRows[21], List.getElem_mem _, ?_, rfl, (show Instr.tCmpR _ _ = _ from ?_)⟩,
    fun _ _ => ⟨thumbRows[22], List.getElem_mem _, ?_, rfl, (show Instr.tCmn _ _ = _ from ?_)⟩,
    fun _ _ => ⟨thumbRows[23], List.getElem_mem _, ?_, rfl, (show Instr.tOrr _ _ = _ from ?_)⟩,
    fun _ _ => ⟨thumbRows[24], List.getElem_mem _, ?_, rfl, (show Instr.tMul _ _ = _ from ?_)⟩,
    fun _ _ => ⟨thumbRows[25], List.getElem_mem _, ?_, rfl, (show Instr.tBic _ _ = _ from ?_)⟩,
    fun _ _ => ⟨thumbRows[26], List.getElem_mem _, ?_, rfl, (show Instr.tMvn _ _ = _ from ?_)⟩⟩
  all_goals first
    | (refine (masked_append _ _ _ _).2 ⟨?_, ?_⟩
       repeat' (first | rfl | exact BitVec.and_zero | refine (masked_append _ _ _ _).2 ⟨?_, ?_⟩))
    | simp (disch := decide) only [condAt, regAt, shiftAt, psrAt, lowAt, highAt, BitVec.extractLsb'_append_eq_of_add_le,
        BitVec.extractLsb'_append_eq_of_le, getLsbD_append_lo, getLsbD_append_hi, Nat.reduceSub, extract_whole,
        Cond.ofBits_toBits, ShiftType.ofBits_toBits, Psr.ofBit_toBits, regBits_toFin, lowRegBits_toFin, highBit_lowBits,
        BitVec.getLsbD_ofBool, decide_true, Bool.true_and]

theorem hasRow_tAddHi_to_tLdrbR :
    (∀ rs rd, (Instr.tAddHi rs rd).HasRow) ∧
    (∀ rs rd, (Instr.tCmpHi rs rd).HasRow) ∧
    (∀ rs rd, (Instr.tMovHi rs rd).HasRow) ∧
    (∀ rs, (Instr.tBx rs).HasRow) ∧
    (∀ rd word8, (Instr.tLdrPc rd word8).HasRow) ∧
    (∀ ro rb rd, (Instr.tStrR ro rb rd).HasRow) ∧
    (∀ ro rb rd, (Instr.tStrbR ro rb rd).HasRow) ∧
    (∀ ro rb rd, (Instr.tLdrR ro rb rd).HasRow) ∧
    (∀ ro rb rd, (Instr.tLdrbR ro rb rd).HasRow) := by
  refine ⟨fun _ _ => ⟨thumbRows[27], List.getElem_mem _, ?_, rfl, (show Instr.tAddHi _ _ = _ from ?_)⟩,
    fun _ _ => ⟨thumbRows[28], List.getElem_mem _, ?_, rfl, (show Instr.tCmpHi _ _ = _ from ?_)⟩,
    fun _ _ => ⟨thumbRows[29], List.getElem_mem _, ?_, rfl, (show Instr.tMovHi _ _ = _ from ?_)⟩,
    fun _ => ⟨thumbRows[30], List.getElem_mem _, ?_, rfl, (show Instr.tBx _ = _ from ?_)⟩,
    fun _ _ => ⟨thumbRows[31], List.getElem_mem _, ?_, rfl, (show Instr.tLdrPc _ _ = _ from ?_)⟩,
    fun _ _ _ => ⟨thumbRows[32], List.getElem_mem _, ?_, rfl, (show Instr.tStrR _ _ _ = _ from ?_)⟩,
    fun _ _ _ => ⟨thumbRows[33], List.getElem_mem _, ?_, rfl, (show Instr.tStrbR _ _ _ = _ from ?_)⟩,
    fun _ _ _ => ⟨thumbRows[34], List.getElem_mem _, ?_, rfl, (show Instr.tLdrR _ _ _ = _ from ?_)⟩,
    fun _ _ _ => ⟨thumbRows[35], List.getElem_mem _, ?_, rfl, (show Instr.tLdrbR _ _ _ = _ from ?_)⟩⟩
  all_goals first
    | (refine (masked_append _ _ _ _).2 ⟨?_, ?_⟩
       repeat' (first | rfl | exact BitVec.and_zero | refine (masked_append _ _ _ _).2 ⟨?_, ?_⟩))
    | simp (disch := decide) only [condAt, regAt, shiftAt, psrAt, lowAt, highAt, BitVec.extractLsb'_append_eq_of_add_le,
        BitVec.extractLsb'_append_eq_of_le, getLsbD_append_lo, getLsbD_append_hi, Nat.reduceSub, extract_whole,
        Cond.ofBits_toBits, ShiftType.ofBits_toBits, Psr.ofBit_toBits, regBits_toFin, lowRegBits_toFin, highBit_lowBits,
        BitVec.getLsbD_ofBool, decide_true, Bool.true_and]

theorem hasRow_tStrhR_to_tStrhI :
    (∀ ro rb rd, (Instr.tStrhR ro rb rd).HasRow) ∧
    (∀ ro rb rd, (Instr.tLdsbR ro rb rd).HasRow) ∧
    (∀ ro rb rd, (Instr.tLdrhR ro rb rd).HasRow) ∧
    (∀ ro rb rd, (Instr.tLdshR ro rb rd).HasRow) ∧
    (∀ offset5 rb rd, (Instr.tStrI offset5 rb rd).HasRow) ∧
    (∀ offset5 rb rd, (Instr.tLdrI offset5 rb rd).HasRow) ∧
    (∀ offset5 rb rd, (Instr.tStrbI offset5 rb rd).HasRow) ∧
    (∀ offset5 rb rd, (Instr.tLdrbI offset5 rb rd).HasRow) ∧
    (∀ offset5 rb rd, (Instr.tStrhI offset5 rb rd).HasRow) := by
  refine ⟨fun _ _ _ => ⟨thumbRows[36], List.getElem_mem _, ?_, rfl, (show Instr.tStrhR _ _ _ = _ from ?_)⟩,
    fun _ _ _ => ⟨thumbRows[37], List.getElem_mem _, ?_, rfl, (show Instr.tLdsbR _ _ _ = _ from ?_)⟩,
    fun _ _ _ => ⟨thumbRows[38], List.getElem_mem _, ?_, rfl, (show Instr.tLdrhR _ _ _ = _ from ?_)⟩,
    fun _ _ _ => ⟨thumbRows[39], List.getElem_mem _, ?_, rfl, (show Instr.tLdshR _ _ _ = _ from ?_)⟩,
    fun _ _ _ => ⟨thumbRows[40], List.getElem_mem _, ?_, rfl, (show Instr.tStrI _ _ _ = _ from ?_)⟩,
    fun _ _ _ => ⟨thumbRows[41], List.getElem_mem _, ?_, rfl, (show Instr.tLdrI _ _ _ = _ from ?_)⟩,
    fun _ _ _ => ⟨thumbRows[42], List.getElem_mem _, ?_, rfl, (show Instr.tStrbI _ _ _ = _ from ?_)⟩,
    fun _ _ _ => ⟨thumbRows[43], List.getElem_mem _, ?_, rfl, (show Instr.tLdrbI _ _ _ = _ from ?_)⟩,
    fun _ _ _ => ⟨thumbRows[44], List.getElem_mem _, ?_, rfl, (show Instr.tStrhI _ _ _ = _ from ?_)⟩⟩
  all_goals first
    | (refine (masked_append _ _ _ _).2 ⟨?_, ?_⟩
       repeat' (first | rfl | exact BitVec.and_zero | refine (masked_append _ _ _ _).2 ⟨?_, ?_⟩))
    | simp (disch := decide) only [condAt, regAt, shiftAt, psrAt, lowAt, highAt, BitVec.extractLsb'_append_eq_of_add_le,
        BitVec.extractLsb'_append_eq_of_le, getLsbD_append_lo, getLsbD_append_hi, Nat.reduceSub, extract_whole,
        Cond.ofBits_toBits, ShiftType.ofBits_toBits, Psr.ofBit_toBits, regBits_toFin, lowRegBits_toFin, highBit_lowBits,
        BitVec.getLsbD_ofBool, decide_true, Bool.true_and]

theorem hasRow_tLdrhI_to_tPop :
    (∀ offset5 rb rd, (Instr.tLdrhI offset5 rb rd).HasRow) ∧
    (∀ rd word8, (Instr.tStrSp rd word8).HasRow) ∧
    (∀ rd word8, (Instr.tLdrSp rd word8).HasRow) ∧
    (∀ rd word8, (Instr.tAddPc rd word8).HasRow) ∧
    (∀ rd word8, (Instr.tAddSp rd word8).HasRow) ∧
    (∀ sword7, (Instr.tSpAdd sword7).HasRow) ∧
    (∀ sword7, (Instr.tSpSub sword7).HasRow) ∧
    (∀ r rlist, (Instr.tPush r rlist).HasRow) ∧
    (∀ r rlist, (Instr.tPop r rlist).HasRow) := by
  refine ⟨fun _ _ _ => ⟨thumbRows[45], List.getElem_mem _, ?_, rfl, (show Instr.tLdrhI _ _ _ = _ from ?_)⟩,
    fun _ _ => ⟨thumbRows[46], List.getElem_mem _, ?_, rfl, (show Instr.tStrSp _ _ = _ from ?_)⟩,
    fun _ _ => ⟨thumbRows[47], List.getElem_mem _, ?_, rfl, (show Instr.tLdrSp _ _ = _ from ?_)⟩,
    fun _ _ => ⟨thumbRows[48], List.getElem_mem _, ?_, rfl, (show Instr.tAddPc _ _ = _ from ?_)⟩,
    fun _ _ => ⟨thumbRows[49], List.getElem_mem _, ?_, rfl, (show Instr.tAddSp _ _ = _ from ?_)⟩,
    fun _ => ⟨thumbRows[50], List.getElem_mem _, ?_, rfl, (show Instr.tSpAdd _ = _ from ?_)⟩,
    fun _ => ⟨thumbRows[51], List.getElem_mem _, ?_, rfl, (show Instr.tSpSub _ = _ from ?_)⟩,
    fun _ _ => ⟨thumbRows[52], List.getElem_mem _, ?_, rfl, (show Instr.tPush _ _ = _ from ?_)⟩,
    fun _ _ => ⟨thumbRows[53], List.getElem_mem _, ?_, rfl, (show Instr.tPop _ _ = _ from ?_)⟩⟩
  all_goals first
    | (refine (masked_append _ _ _ _).2 ⟨?_, ?_⟩
       repeat' (first | rfl | exact BitVec.and_zero | refine (masked_append _ _ _ _).2 ⟨?_, ?_⟩))
    | simp (disch := decide) only [condAt, regAt, shiftAt, psrAt, lowAt, highAt, BitVec.extractLsb'_append_eq_of_add_le,
        BitVec.extractLsb'_append_eq_of_le, getLsbD_append_lo, getLsbD_append_hi, Nat.reduceSub, extract_whole,
        Cond.ofBits_toBits, ShiftType.ofBits_toBits, Psr.ofBit_toBits, regBits_toFin, lowRegBits_toFin, highBit_lowBits,
        BitVec.getLsbD_ofBool, decide_true, Bool.true_and]

theorem hasRow_tStmia_to_tBvs :
    (∀ rb rlist, (Instr.tStmia rb rlist).HasRow) ∧
    (∀ rb rlist, (Instr.tLdmia rb rlist).HasRow) ∧
    (∀ soffset8, (Instr.tBeq soffset8).HasRow) ∧
    (∀ soffset8, (Instr.tBne soffset8).HasRow) ∧
    (∀ soffset8, (Instr.tBcs soffset8).HasRow) ∧
    (∀ soffset8, (Instr.tBcc soffset8).HasRow) ∧
    (∀ soffset8, (Instr.tBmi soffset8).HasRow) ∧
    (∀ soffset8, (Instr.tBpl soffset8).HasRow) ∧
    (∀ soffset8, (Instr.tBvs soffset8).HasRow) := by
  refine ⟨fun _ _ => ⟨thumbRows[54], List.getElem_mem _, ?_, rfl, (show Instr.tStmia _ _ = _ from ?_)⟩,
    fun _ _ => ⟨thumbRows[55], List.getElem_mem _, ?_, rfl, (show Instr.tLdmia _ _ = _ from ?_)⟩,
    fun _ => ⟨thumbRows[56], List.getElem_mem _, ?_, rfl, (show Instr.tBeq _ = _ from ?_)⟩,
    fun _ => ⟨thumbRows[57], List.getElem_mem _, ?_, rfl, (show Instr.tBne _ = _ from ?_)⟩,
    fun _ => ⟨thumbRows[58], List.getElem_mem _, ?_, rfl, (show Instr.tBcs _ = _ from ?_)⟩,
    fun _ => ⟨thumbRows[59], List.getElem_mem _, ?_, rfl, (show Instr.tBcc _ = _ from ?_)⟩,
    fun _ => ⟨thumbRows[60], List.getElem_mem _, ?_, rfl, (show Instr.tBmi _ = _ from ?_)⟩,
    fun _ => ⟨thumbRows[61], List.getElem_mem _, ?_, rfl, (show Instr.tBpl _ = _ from ?_)⟩,
    fun _ => ⟨thumbRows[62], List.getElem_mem _, ?_, rfl, (show Instr.tBvs _ = _ from ?_)⟩⟩
  all_goals first
    | (refine (masked_append _ _ _ _).2 ⟨?_, ?_⟩
       repeat' (first | rfl | exact BitVec.and_zero | refine (masked_append _ _ _ _).2 ⟨?_, ?_⟩))
    | simp (disch := decide) only [condAt, regAt, shiftAt, psrAt, lowAt, highAt, BitVec.extractLsb'_append_eq_of_add_le,
        BitVec.extractLsb'_append_eq_of_le, getLsbD_append_lo, getLsbD_append_hi, Nat.reduceSub, extract_whole,
        Cond.ofBits_toBits, ShiftType.ofBits_toBits, Psr.ofBit_toBits, regBits_toFin, lowRegBits_toFin, highBit_lowBits,
        BitVec.getLsbD_ofBool, decide_true, Bool.true_and]

theorem hasRow_tBvc_to_tSwi :
    (∀ soffset8, (Instr.tBvc soffset8).HasRow) ∧
    (∀ soffset8, (Instr.tBhi soffset8).HasRow) ∧
    (∀ soffset8, (Instr.tBls soffset8).HasRow) ∧
    (∀ soffset8, (Instr.tBge soffset8).HasRow) ∧
    (∀ soffset8, (Instr.tBlt soffset8).HasRow) ∧
    (∀ soffset8, (Instr.tBgt soffset8).HasRow) ∧
    (∀ soffset8, (Instr.tBle soffset8).HasRow) ∧
    (∀ imm8, (Instr.tUndefined imm8).HasRow) ∧
    (∀ value8, (Instr.tSwi value8).HasRow) := by
  refine ⟨fun _ => ⟨thumbRows[63], List.getElem_mem _, ?_, rfl, (show Instr.tBvc _ = _ from ?_)⟩,
    fun _ => ⟨thumbRows[64], List.getElem_mem _, ?_, rfl, (show Instr.tBhi _ = _ from ?_)⟩,
    fun _ => ⟨thumbRows[65], List.getElem_mem _, ?_, rfl, (show Instr.tBls _ = _ from ?_)⟩,
    fun _ => ⟨thumbRows[66], List.getElem_mem _, ?_, rfl, (show Instr.tBge _ = _ from ?_)⟩,
    fun _ => ⟨thumbRows[67], List.getElem_mem _, ?_, rfl, (show Instr.tBlt _ = _ from ?_)⟩,
    fun _ => ⟨thumbRows[68], List.getElem_mem _, ?_, rfl, (show Instr.tBgt _ = _ from ?_)⟩,
    fun _ => ⟨thumbRows[69], List.getElem_mem _, ?_, rfl, (show Instr.tBle _ = _ from ?_)⟩,
    fun _ => ⟨thumbRows[70], List.getElem_mem _, ?_, rfl, (show Instr.tUndefined _ = _ from ?_)⟩,
    fun _ => ⟨thumbRows[71], List.getElem_mem _, ?_, rfl, (show Instr.tSwi _ = _ from ?_)⟩⟩
  all_goals first
    | (refine (masked_append _ _ _ _).2 ⟨?_, ?_⟩
       repeat' (first | rfl | exact BitVec.and_zero | refine (masked_append _ _ _ _).2 ⟨?_, ?_⟩))
    | simp (disch := decide) only [condAt, regAt, shiftAt, psrAt, lowAt, highAt, BitVec.extractLsb'_append_eq_of_add_le,
        BitVec.extractLsb'_append_eq_of_le, getLsbD_append_lo, getLsbD_append_hi, Nat.reduceSub, extract_whole,
        Cond.ofBits_toBits, ShiftType.ofBits_toBits, Psr.ofBit_toBits, regBits_toFin, lowRegBits_toFin, highBit_lowBits,
        BitVec.getLsbD_ofBool, decide_true, Bool.true_and]

theorem hasRow_tB_to_tBlSecond :
    (∀ offset11, (Instr.tB offset11).HasRow) ∧
    (∀ offset11, (Instr.tBlFirst offset11).HasRow) ∧
    (∀ offset11, (Instr.tBlSecond offset11).HasRow) := by
  refine ⟨fun _ => ⟨thumbRows[72], List.getElem_mem _, ?_, rfl, (show Instr.tB _ = _ from ?_)⟩,
    fun _ => ⟨thumbRows[73], List.getElem_mem _, ?_, rfl, (show Instr.tBlFirst _ = _ from ?_)⟩,
    fun _ => ⟨thumbRows[74], List.getElem_mem _, ?_, rfl, (show Instr.tBlSecond _ = _ from ?_)⟩⟩
  all_goals first
    | (refine (masked_append _ _ _ _).2 ⟨?_, ?_⟩
       repeat' (first | rfl | exact BitVec.and_zero | refine (masked_append _ _ _ _).2 ⟨?_, ?_⟩))
    | simp (disch := decide) only [condAt, regAt, shiftAt, psrAt, lowAt, highAt, BitVec.extractLsb'_append_eq_of_add_le,
        BitVec.extractLsb'_append_eq_of_le, getLsbD_append_lo, getLsbD_append_hi, Nat.reduceSub, extract_whole,
        Cond.ofBits_toBits, ShiftType.ofBits_toBits, Psr.ofBit_toBits, regBits_toFin, lowRegBits_toFin, highBit_lowBits,
        BitVec.getLsbD_ofBool, decide_true, Bool.true_and]

/-- Every instruction has its row. -/
theorem Instr.hasRow (i : Instr) : i.HasRow := by
  cases i
  case andI => exact hasRow_andI_to_subS.1 _ _ _ _ _ _
  case andR => exact hasRow_andI_to_subS.2.1 _ _ _ _ _ _ _
  case andS => exact hasRow_andI_to_subS.2.2.1 _ _ _ _ _ _ _
  case eorI => exact hasRow_andI_to_subS.2.2.2.1 _ _ _ _ _ _
  case eorR => exact hasRow_andI_to_subS.2.2.2.2.1 _ _ _ _ _ _ _
  case eorS => exact hasRow_andI_to_subS.2.2.2.2.2.1 _ _ _ _ _ _ _
  case subI => exact hasRow_andI_to_subS.2.2.2.2.2.2.1 _ _ _ _ _ _
  case subR => exact hasRow_andI_to_subS.2.2.2.2.2.2.2.1 _ _ _ _ _ _ _
  case subS => exact hasRow_andI_to_subS.2.2.2.2.2.2.2.2 _ _ _ _ _ _ _
  case rsbI => exact hasRow_rsbI_to_adcS.1 _ _ _ _ _ _
  case rsbR => exact hasRow_rsbI_to_adcS.2.1 _ _ _ _ _ _ _
  case rsbS => exact hasRow_rsbI_to_adcS.2.2.1 _ _ _ _ _ _ _
  case addI => exact hasRow_rsbI_to_adcS.2.2.2.1 _ _ _ _ _ _
  case addR => exact hasRow_rsbI_to_adcS.2.2.2.2.1 _ _ _ _ _ _ _
  case addS => exact hasRow_rsbI_to_adcS.2.2.2.2.2.1 _ _ _ _ _ _ _
  case adcI => exact hasRow_rsbI_to_adcS.2.2.2.2.2.2.1 _ _ _ _ _ _
  case adcR => exact hasRow_rsbI_to_adcS.2.2.2.2.2.2.2.1 _ _ _ _ _ _ _
  case adcS => exact hasRow_rsbI_to_adcS.2.2.2.2.2.2.2.2 _ _ _ _ _ _ _
  case sbcI => exact hasRow_sbcI_to_tstS.1 _ _ _ _ _ _
  case sbcR => exact hasRow_sbcI_to_tstS.2.1 _ _ _ _ _ _ _
  case sbcS => exact hasRow_sbcI_to_tstS.2.2.1 _ _ _ _ _ _ _
  case rscI => exact hasRow_sbcI_to_tstS.2.2.2.1 _ _ _ _ _ _
  case rscR => exact hasRow_sbcI_to_tstS.2.2.2.2.1 _ _ _ _ _ _ _
  case rscS => exact hasRow_sbcI_to_tstS.2.2.2.2.2.1 _ _ _ _ _ _ _
  case tstI => exact hasRow_sbcI_to_tstS.2.2.2.2.2.2.1 _ _ _ _
  case tstR => exact hasRow_sbcI_to_tstS.2.2.2.2.2.2.2.1 _ _ _ _ _
  case tstS => exact hasRow_sbcI_to_tstS.2.2.2.2.2.2.2.2 _ _ _ _ _
  case teqI => exact hasRow_teqI_to_cmnS.1 _ _ _ _
  case teqR => exact hasRow_teqI_to_cmnS.2.1 _ _ _ _ _
  case teqS => exact hasRow_teqI_to_cmnS.2.2.1 _ _ _ _ _
  case cmpI => exact hasRow_teqI_to_cmnS.2.2.2.1 _ _ _ _
  case cmpR => exact hasRow_teqI_to_cmnS.2.2.2.2.1 _ _ _ _ _
  case cmpS => exact hasRow_teqI_to_cmnS.2.2.2.2.2.1 _ _ _ _ _
  case cmnI => exact hasRow_teqI_to_cmnS.2.2.2.2.2.2.1 _ _ _ _
  case cmnR => exact hasRow_teqI_to_cmnS.2.2.2.2.2.2.2.1 _ _ _ _ _
  case cmnS => exact hasRow_teqI_to_cmnS.2.2.2.2.2.2.2.2 _ _ _ _ _
  case orrI => exact hasRow_orrI_to_bicS.1 _ _ _ _ _ _
  case orrR => exact hasRow_orrI_to_bicS.2.1 _ _ _ _ _ _ _
  case orrS => exact hasRow_orrI_to_bicS.2.2.1 _ _ _ _ _ _ _
  case movI => exact hasRow_orrI_to_bicS.2.2.2.1 _ _ _ _ _
  case movR => exact hasRow_orrI_to_bicS.2.2.2.2.1 _ _ _ _ _ _
  case movS => exact hasRow_orrI_to_bicS.2.2.2.2.2.1 _ _ _ _ _ _
  case bicI => exact hasRow_orrI_to_bicS.2.2.2.2.2.2.1 _ _ _ _ _ _
  case bicR => exact hasRow_orrI_to_bicS.2.2.2.2.2.2.2.1 _ _ _ _ _ _ _
  case bicS => exact hasRow_orrI_to_bicS.2.2.2.2.2.2.2.2 _ _ _ _ _ _ _
  case mvnI => exact hasRow_mvnI_to_mla.1 _ _ _ _ _
  case mvnR => exact hasRow_mvnI_to_mla.2.1 _ _ _ _ _ _
  case mvnS => exact hasRow_mvnI_to_mla.2.2.1 _ _ _ _ _ _
  case mrs => exact hasRow_mvnI_to_mla.2.2.2.1 _ _ _
  case msrR => exact hasRow_mvnI_to_mla.2.2.2.2.1 _ _ _ _
  case msrI => exact hasRow_mvnI_to_mla.2.2.2.2.2.1 _ _ _ _ _
  case bx => exact hasRow_mvnI_to_mla.2.2.2.2.2.2.1 _ _
  case mul => exact hasRow_mvnI_to_mla.2.2.2.2.2.2.2.1 _ _ _ _ _
  case mla => exact hasRow_mvnI_to_mla.2.2.2.2.2.2.2.2 _ _ _ _ _ _
  case umull => exact hasRow_umull_to_ldrhR.1 _ _ _ _ _ _
  case umlal => exact hasRow_umull_to_ldrhR.2.1 _ _ _ _ _ _
  case smull => exact hasRow_umull_to_ldrhR.2.2.1 _ _ _ _ _ _
  case smlal => exact hasRow_umull_to_ldrhR.2.2.2.1 _ _ _ _ _ _
  case swp => exact hasRow_umull_to_ldrhR.2.2.2.2.1 _ _ _ _
  case swpb => exact hasRow_umull_to_ldrhR.2.2.2.2.2.1 _ _ _ _
  case strhR => exact hasRow_umull_to_ldrhR.2.2.2.2.2.2.1 _ _ _ _ _ _ _
  case strhI => exact hasRow_umull_to_ldrhR.2.2.2.2.2.2.2.1 _ _ _ _ _ _ _ _
  case ldrhR => exact hasRow_umull_to_ldrhR.2.2.2.2.2.2.2.2 _ _ _ _ _ _ _
  case ldrhI => exact hasRow_ldrhI_to_ldrbR.1 _ _ _ _ _ _ _ _
  case ldrsbR => exact hasRow_ldrhI_to_ldrbR.2.1 _ _ _ _ _ _ _
  case ldrsbI => exact hasRow_ldrhI_to_ldrbR.2.2.1 _ _ _ _ _ _ _ _
  case ldrshR => exact hasRow_ldrhI_to_ldrbR.2.2.2.1 _ _ _ _ _ _ _
  case ldrshI => exact hasRow_ldrhI_to_ldrbR.2.2.2.2.1 _ _ _ _ _ _ _ _
  case ldrI => exact hasRow_ldrhI_to_ldrbR.2.2.2.2.2.1 _ _ _ _ _ _ _
  case ldrR => exact hasRow_ldrhI_to_ldrbR.2.2.2.2.2.2.1 _ _ _ _ _ _ _ _ _
  case ldrbI => exact hasRow_ldrhI_to_ldrbR.2.2.2.2.2.2.2.1 _ _ _ _ _ _ _
  case ldrbR => exact hasRow_ldrhI_to_ldrbR.2.2.2.2.2.2.2.2 _ _ _ _ _ _ _ _ _
  case strI => exact hasRow_strI_to_bl.1 _ _ _ _ _ _ _
  case strR => exact hasRow_strI_to_bl.2.1 _ _ _ _ _ _ _ _ _
  case strbI => exact hasRow_strI_to_bl.2.2.1 _ _ _ _ _ _ _
  case strbR => exact hasRow_strI_to_bl.2.2.2.1 _ _ _ _ _ _ _ _ _
  case undefined => exact hasRow_strI_to_bl.2.2.2.2.1 _ _ _
  case ldm => exact hasRow_strI_to_bl.2.2.2.2.2.1 _ _ _ _ _ _ _
  case stm => exact hasRow_strI_to_bl.2.2.2.2.2.2.1 _ _ _ _ _ _ _
  case b => exact hasRow_strI_to_bl.2.2.2.2.2.2.2.1 _ _
  case bl => exact hasRow_strI_to_bl.2.2.2.2.2.2.2.2 _ _
  case ldc => exact hasRow_ldc_to_swi.1 _ _ _ _ _ _ _ _ _
  case stc => exact hasRow_ldc_to_swi.2.1 _ _ _ _ _ _ _ _ _
  case cdp => exact hasRow_ldc_to_swi.2.2.1 _ _ _ _ _ _ _
  case mrc => exact hasRow_ldc_to_swi.2.2.2.1 _ _ _ _ _ _ _
  case mcr => exact hasRow_ldc_to_swi.2.2.2.2.1 _ _ _ _ _ _ _
  case swi => exact hasRow_ldc_to_swi.2.2.2.2.2 _ _
  case tLslI => exact hasRow_tLslI_to_tCmpI.1 _ _ _
  case tLsrI => exact hasRow_tLslI_to_tCmpI.2.1 _ _ _
  case tAsrI => exact hasRow_tLslI_to_tCmpI.2.2.1 _ _ _
  case tAddR => exact hasRow_tLslI_to_tCmpI.2.2.2.1 _ _ _
  case tSubR => exact hasRow_tLslI_to_tCmpI.2.2.2.2.1 _ _ _
  case tAddI3 => exact hasRow_tLslI_to_tCmpI.2.2.2.2.2.1 _ _ _
  case tSubI3 => exact hasRow_tLslI_to_tCmpI.2.2.2.2.2.2.1 _ _ _
  case tMovI => exact hasRow_tLslI_to_tCmpI.2.2.2.2.2.2.2.1 _ _
  case tCmpI => exact hasRow_tLslI_to_tCmpI.2.2.2.2.2.2.2.2 _ _
  case tAddI8 => exact hasRow_tAddI8_to_tSbc.1 _ _
  case tSubI8 => exact hasRow_tAddI8_to_tSbc.2.1 _ _
  case tAnd => exact hasRow_tAddI8_to_tSbc.2.2.1 _ _
  case tEor => exact hasRow_tAddI8_to_tSbc.2.2.2.1 _ _
  case tLslR => exact hasRow_tAddI8_to_tSbc.2.2.2.2.1 _ _
  case tLsrR => exact hasRow_tAddI8_to_tSbc.2.2.2.2.2.1 _ _
  case tAsrR => exact hasRow_tAddI8_to_tSbc.2.2.2.2.2.2.1 _ _
  case tAdc => exact hasRow_tAddI8_to_tSbc.2.2.2.2.2.2.2.1 _ _
  case tSbc => exact hasRow_tAddI8_to_tSbc.2.2.2.2.2.2.2.2 _ _
  case tRorR => exact hasRow_tRorR_to_tMvn.1 _ _
  case tTst => exact hasRow_tRorR_to_tMvn.2.1 _ _
  case tNeg => exact hasRow_tRorR_to_tMvn.2.2.1 _ _
  case tCmpR => exact hasRow_tRorR_to_tMvn.2.2.2.1 _ _
  case tCmn => exact hasRow_tRorR_to_tMvn.2.2.2.2.1 _ _
  case tOrr => exact hasRow_tRorR_to_tMvn.2.2.2.2.2.1 _ _
  case tMul => exact hasRow_tRorR_to_tMvn.2.2.2.2.2.2.1 _ _
  case tBic => exact hasRow_tRorR_to_tMvn.2.2.2.2.2.2.2.1 _ _
  case tMvn => exact hasRow_tRorR_to_tMvn.2.2.2.2.2.2.2.2 _ _
  case tAddHi => exact hasRow_tAddHi_to_tLdrbR.1 _ _
  case tCmpHi => exact hasRow_tAddHi_to_tLdrbR.2.1 _ _
  case tMovHi => exact hasRow_tAddHi_to_tLdrbR.2.2.1 _ _
  case tBx => exact hasRow_tAddHi_to_tLdrbR.2.2.2.1 _
  case tLdrPc => exact hasRow_tAddHi_to_tLdrbR.2.2.2.2.1 _ _
  case tStrR => exact hasRow_tAddHi_to_tLdrbR.2.2.2.2.2.1 _ _ _
  case tStrbR => exact hasRow_tAddHi_to_tLdrbR.2.2.2.2.2.2.1 _ _ _
  case tLdrR => exact hasRow_tAddHi_to_tLdrbR.2.2.2.2.2.2.2.1 _ _ _
  case tLdrbR => exact hasRow_tAddHi_to_tLdrbR.2.2.2.2.2.2.2.2 _ _ _
  case tStrhR => exact hasRow_tStrhR_to_tStrhI.1 _ _ _
  case tLdsbR => exact hasRow_tStrhR_to_tStrhI.2.1 _ _ _
  case tLdrhR => exact hasRow_tStrhR_to_tStrhI.2.2.1 _ _ _
  case tLdshR => exact hasRow_tStrhR_to_tStrhI.2.2.2.1 _ _ _
  case tStrI => exact hasRow_tStrhR_to_tStrhI.2.2.2.2.1 _ _ _
  case tLdrI => exact hasRow_tStrhR_to_tStrhI.2.2.2.2.2.1 _ _ _
  case tStrbI => exact hasRow_tStrhR_to_tStrhI.2.2.2.2.2.2.1 _ _ _
  case tLdrbI => exact hasRow_tStrhR_to_tStrhI.2.2.2.2.2.2.2.1 _ _ _
  case tStrhI => exact hasRow_tStrhR_to_tStrhI.2.2.2.2.2.2.2.2 _ _ _
  case tLdrhI => exact hasRow_tLdrhI_to_tPop.1 _ _ _
  case tStrSp => exact hasRow_tLdrhI_to_tPop.2.1 _ _
  case tLdrSp => exact hasRow_tLdrhI_to_tPop.2.2.1 _ _
  case tAddPc => exact hasRow_tLdrhI_to_tPop.2.2.2.1 _ _
  case tAddSp => exact hasRow_tLdrhI_to_tPop.2.2.2.2.1 _ _
  case tSpAdd => exact hasRow_tLdrhI_to_tPop.2.2.2.2.2.1 _
  case tSpSub => exact hasRow_tLdrhI_to_tPop.2.2.2.2.2.2.1 _
  case tPush => exact hasRow_tLdrhI_to_tPop.2.2.2.2.2.2.2.1 _ _
  case tPop => exact hasRow_tLdrhI_to_tPop.2.2.2.2.2.2.2.2 _ _
  case tStmia => exact hasRow_tStmia_to_tBvs.1 _ _
  case tLdmia => exact hasRow_tStmia_to_tBvs.2.1 _ _
  case tBeq => exact hasRow_tStmia_to_tBvs.2.2.1 _
  case tBne => exact hasRow_tStmia_to_tBvs.2.2.2.1 _
  case tBcs => exact hasRow_tStmia_to_tBvs.2.2.2.2.1 _
  case tBcc => exact hasRow_tStmia_to_tBvs.2.2.2.2.2.1 _
  case tBmi => exact hasRow_tStmia_to_tBvs.2.2.2.2.2.2.1 _
  case tBpl => exact hasRow_tStmia_to_tBvs.2.2.2.2.2.2.2.1 _
  case tBvs => exact hasRow_tStmia_to_tBvs.2.2.2.2.2.2.2.2 _
  case tBvc => exact hasRow_tBvc_to_tSwi.1 _
  case tBhi => exact hasRow_tBvc_to_tSwi.2.1 _
  case tBls => exact hasRow_tBvc_to_tSwi.2.2.1 _
  case tBge => exact hasRow_tBvc_to_tSwi.2.2.2.1 _
  case tBlt => exact hasRow_tBvc_to_tSwi.2.2.2.2.1 _
  case tBgt => exact hasRow_tBvc_to_tSwi.2.2.2.2.2.1 _
  case tBle => exact hasRow_tBvc_to_tSwi.2.2.2.2.2.2.1 _
  case tUndefined => exact hasRow_tBvc_to_tSwi.2.2.2.2.2.2.2.1 _
  case tSwi => exact hasRow_tBvc_to_tSwi.2.2.2.2.2.2.2.2 _
  case tB => exact hasRow_tB_to_tBlSecond.1 _
  case tBlFirst => exact hasRow_tB_to_tBlSecond.2.1 _
  case tBlSecond => exact hasRow_tB_to_tBlSecond.2.2 _

/-! ### The rows, group by group: what a row builds encodes back -/

theorem append_eq_of_parts {v w : Nat} (x : BitVec v) (y : BitVec w) (z : BitVec (v + w))
    (h1 : x = z.extractLsb' w v) (h2 : y = z.extractLsb' 0 w) : x ++ y = z := by
  subst h1 h2
  apply BitVec.eq_of_getLsbD_eq
  intro i hi
  rw [BitVec.getLsbD_append]
  split
  · rename_i h
    simp [h]
  · rename_i h
    have e : w + (i - w) = i := by omega
    have hv : i - w < v := by omega
    simp only [BitVec.getLsbD_extractLsb', e, hv]
    simp

theorem extract_extract {n a b c d : Nat} (x : BitVec n) (h : c + d ≤ b) :
    (x.extractLsb' a b).extractLsb' c d = x.extractLsb' (a + c) d := by
  apply BitVec.eq_of_getLsbD_eq
  intro i hi
  have : c + i < b := by omega
  simp only [BitVec.getLsbD_extractLsb', hi, this, decide_true, Bool.true_and]
  congr 1
  omega

/-- The bits of a matched word that lie under the mask are the row's. -/
theorem extract_masked {n : Nat} {w m b : BitVec n} (h : w &&& m = b) (s l : Nat)
    (hm : m.extractLsb' s l = BitVec.allOnes l) : b.extractLsb' s l = w.extractLsb' s l := by
  subst h
  apply BitVec.eq_of_getLsbD_eq
  intro i hi
  have := congrArg (fun z : BitVec l => z.getLsbD i) hm
  simp only [BitVec.getLsbD_extractLsb', BitVec.getLsbD_and, hi, decide_true, Bool.true_and, BitVec.getLsbD_allOnes]
    at this ⊢
  rw [this, Bool.and_true]

theorem ofBool_bit {n : Nat} (w : BitVec n) (k : Nat) : BitVec.ofBool (w.getLsbD k) = w.extractLsb' k 1 := by
  apply BitVec.eq_of_getLsbD_eq
  intro i hi
  obtain rfl : i = 0 := by omega
  simp

theorem toBits_condAt (w : Word) (k : Nat) : (condAt w k).toBits = w.extractLsb' k 4 := by
  unfold condAt
  generalize w.extractLsb' k 4 = x
  revert x
  decide

theorem toBits_shiftAt (w : Word) (k : Nat) : (shiftAt w k).toBits = w.extractLsb' k 2 := by
  unfold shiftAt
  generalize w.extractLsb' k 2 = x
  revert x
  decide

theorem toBits_psrAt (w : Word) (k : Nat) : (psrAt w k).toBits = w.extractLsb' k 1 := by
  rw [← ofBool_bit]
  unfold psrAt
  cases w.getLsbD k <;> rfl

theorem regBits_regAt (w : Word) (k : Nat) : regBits (regAt w k) = w.extractLsb' k 4 := rfl

theorem lowRegBits_lowAt (w : Half) (k : Nat) : lowRegBits (lowAt w k) = w.extractLsb' k 3 := rfl

theorem highBit_highAt (w : Half) (h k : Nat) : highBit (highAt w h k) = w.extractLsb' h 1 := by
  show (w.extractLsb' h 1 ++ w.extractLsb' k 3).extractLsb' 3 1 = _
  rw [BitVec.extractLsb'_append_eq_of_le (by decide)]
  exact extract_whole _

theorem lowBits_highAt (w : Half) (h k : Nat) : lowBits (highAt w h k) = w.extractLsb' k 3 := by
  show (w.extractLsb' h 1 ++ w.extractLsb' k 3).extractLsb' 0 3 = _
  rw [BitVec.extractLsb'_append_eq_of_add_le (by decide)]
  exact extract_whole _

theorem arm_congr {x y : Word} (h : x = y) : Code.arm x = Code.arm y := h ▸ rfl

theorem thumb_congr {x y : Half} (h : x = y) : Code.thumb x = Code.thumb y := h ▸ rfl

theorem encode_build_armRowsAnd :
    ∀ r ∈ armRowsAnd, ∀ w, w &&& r.mask = r.bits → encode (r.build w) = .arm w := by
  unfold armRowsAnd
  repeat' (first | exact List.forall_mem_nil _ | refine List.forall_mem_cons.2 ⟨fun w h => arm_congr ?_, ?_⟩)
  all_goals
    repeat' (refine append_eq_of_parts _ _ _ ?_ ?_)
    all_goals simp (disch := decide) only [toBits_condAt, toBits_shiftAt, toBits_psrAt, ofBool_bit, regBits_regAt,
      lowRegBits_lowAt, highBit_highAt, lowBits_highAt, extract_extract, Nat.reduceAdd]
    all_goals
      refine Eq.trans ?_ (extract_masked h _ _ ?_)
      · rfl
      · rfl

theorem encode_build_armRowsSbc :
    ∀ r ∈ armRowsSbc, ∀ w, w &&& r.mask = r.bits → encode (r.build w) = .arm w := by
  unfold armRowsSbc
  repeat' (first | exact List.forall_mem_nil _ | refine List.forall_mem_cons.2 ⟨fun w h => arm_congr ?_, ?_⟩)
  all_goals
    repeat' (refine append_eq_of_parts _ _ _ ?_ ?_)
    all_goals simp (disch := decide) only [toBits_condAt, toBits_shiftAt, toBits_psrAt, ofBool_bit, regBits_regAt,
      lowRegBits_lowAt, highBit_highAt, lowBits_highAt, extract_extract, Nat.reduceAdd]
    all_goals
      refine Eq.trans ?_ (extract_masked h _ _ ?_)
      · rfl
      · rfl

theorem encode_build_armRowsOrr :
    ∀ r ∈ armRowsOrr, ∀ w, w &&& r.mask = r.bits → encode (r.build w) = .arm w := by
  unfold armRowsOrr
  repeat' (first | exact List.forall_mem_nil _ | refine List.forall_mem_cons.2 ⟨fun w h => arm_congr ?_, ?_⟩)
  all_goals
    repeat' (refine append_eq_of_parts _ _ _ ?_ ?_)
    all_goals simp (disch := decide) only [toBits_condAt, toBits_shiftAt, toBits_psrAt, ofBool_bit, regBits_regAt,
      lowRegBits_lowAt, highBit_highAt, lowBits_highAt, extract_extract, Nat.reduceAdd]
    all_goals
      refine Eq.trans ?_ (extract_masked h _ _ ?_)
      · rfl
      · rfl

theorem encode_build_armRowsMisc :
    ∀ r ∈ armRowsMisc, ∀ w, w &&& r.mask = r.bits → encode (r.build w) = .arm w := by
  unfold armRowsMisc
  repeat' (first | exact List.forall_mem_nil _ | refine List.forall_mem_cons.2 ⟨fun w h => arm_congr ?_, ?_⟩)
  all_goals
    repeat' (refine append_eq_of_parts _ _ _ ?_ ?_)
    all_goals simp (disch := decide) only [toBits_condAt, toBits_shiftAt, toBits_psrAt, ofBool_bit, regBits_regAt,
      lowRegBits_lowAt, highBit_highAt, lowBits_highAt, extract_extract, Nat.reduceAdd]
    all_goals
      refine Eq.trans ?_ (extract_masked h _ _ ?_)
      · rfl
      · rfl

theorem encode_build_armRowsRest :
    ∀ r ∈ armRowsRest, ∀ w, w &&& r.mask = r.bits → encode (r.build w) = .arm w := by
  unfold armRowsRest
  repeat' (first | exact List.forall_mem_nil _ | refine List.forall_mem_cons.2 ⟨fun w h => arm_congr ?_, ?_⟩)
  all_goals
    repeat' (refine append_eq_of_parts _ _ _ ?_ ?_)
    all_goals simp (disch := decide) only [toBits_condAt, toBits_shiftAt, toBits_psrAt, ofBool_bit, regBits_regAt,
      lowRegBits_lowAt, highBit_highAt, lowBits_highAt, extract_extract, Nat.reduceAdd]
    all_goals
      refine Eq.trans ?_ (extract_masked h _ _ ?_)
      · rfl
      · rfl

theorem encode_build_thumbRowsAlu :
    ∀ r ∈ thumbRowsAlu, ∀ w, w &&& r.mask = r.bits → encode (r.build w) = .thumb w := by
  unfold thumbRowsAlu
  repeat' (first | exact List.forall_mem_nil _ | refine List.forall_mem_cons.2 ⟨fun w h => thumb_congr ?_, ?_⟩)
  all_goals
    repeat' (refine append_eq_of_parts _ _ _ ?_ ?_)
    all_goals simp (disch := decide) only [toBits_condAt, toBits_shiftAt, toBits_psrAt, ofBool_bit, regBits_regAt,
      lowRegBits_lowAt, highBit_highAt, lowBits_highAt, extract_extract, Nat.reduceAdd]
    all_goals
      refine Eq.trans ?_ (extract_masked h _ _ ?_)
      · rfl
      · rfl

theorem encode_build_thumbRowsMemory :
    ∀ r ∈ thumbRowsMemory, ∀ w, w &&& r.mask = r.bits → encode (r.build w) = .thumb w := by
  unfold thumbRowsMemory
  repeat' (first | exact List.forall_mem_nil _ | refine List.forall_mem_cons.2 ⟨fun w h => thumb_congr ?_, ?_⟩)
  all_goals
    repeat' (refine append_eq_of_parts _ _ _ ?_ ?_)
    all_goals simp (disch := decide) only [toBits_condAt, toBits_shiftAt, toBits_psrAt, ofBool_bit, regBits_regAt,
      lowRegBits_lowAt, highBit_highAt, lowBits_highAt, extract_extract, Nat.reduceAdd]
    all_goals
      refine Eq.trans ?_ (extract_masked h _ _ ?_)
      · rfl
      · rfl

theorem encode_build_thumbRowsBranch :
    ∀ r ∈ thumbRowsBranch, ∀ w, w &&& r.mask = r.bits → encode (r.build w) = .thumb w := by
  unfold thumbRowsBranch
  repeat' (first | exact List.forall_mem_nil _ | refine List.forall_mem_cons.2 ⟨fun w h => thumb_congr ?_, ?_⟩)
  all_goals
    repeat' (refine append_eq_of_parts _ _ _ ?_ ?_)
    all_goals simp (disch := decide) only [toBits_condAt, toBits_shiftAt, toBits_psrAt, ofBool_bit, regBits_regAt,
      lowRegBits_lowAt, highBit_highAt, lowBits_highAt, extract_extract, Nat.reduceAdd]
    all_goals
      refine Eq.trans ?_ (extract_masked h _ _ ?_)
      · rfl
      · rfl

/-- A word that a row matches is the encoding of what the row builds. -/
theorem encode_build_arm {r : ArmRow} (hr : r ∈ armRows) {w : Word} (h : w &&& r.mask = r.bits) :
    encode (r.build w) = .arm w := by
  simp only [armRows, List.mem_append] at hr
  rcases hr with (((hr | hr) | hr) | hr) | hr
  · exact encode_build_armRowsAnd r hr w h
  · exact encode_build_armRowsSbc r hr w h
  · exact encode_build_armRowsOrr r hr w h
  · exact encode_build_armRowsMisc r hr w h
  · exact encode_build_armRowsRest r hr w h

/-- A word that a row matches is the encoding of what the row builds. -/
theorem encode_build_thumb {r : ThumbRow} (hr : r ∈ thumbRows) {w : Half} (h : w &&& r.mask = r.bits) :
    encode (r.build w) = .thumb w := by
  simp only [thumbRows, List.mem_append] at hr
  rcases hr with (hr | hr) | hr
  · exact encode_build_thumbRowsAlu r hr w h
  · exact encode_build_thumbRowsMemory r hr w h
  · exact encode_build_thumbRowsBranch r hr w h

/-- What a row builds is of its instruction set and is marked V4T_EXTRAS as the row is. -/
theorem build_arm : ∀ r ∈ armRows, ∀ w, (r.build w).isThumb = false ∧ (r.build w).needsExtras = r.extras := by
  unfold armRows armRowsAnd armRowsSbc armRowsOrr armRowsMisc armRowsRest
  simp only [List.cons_append, List.nil_append]
  repeat' (first | exact List.forall_mem_nil _ | refine List.forall_mem_cons.2 ⟨fun _ => ⟨rfl, rfl⟩, ?_⟩)

/-- What a row builds is of its instruction set and is marked V4T_EXTRAS as the row is. -/
theorem build_thumb : ∀ r ∈ thumbRows, ∀ w, (r.build w).isThumb = true ∧ (r.build w).needsExtras = r.extras := by
  unfold thumbRows thumbRowsAlu thumbRowsMemory thumbRowsBranch
  simp only [List.cons_append, List.nil_append]
  repeat' (first | exact List.forall_mem_nil _ | refine List.forall_mem_cons.2 ⟨fun _ => ⟨rfl, rfl⟩, ?_⟩)

end Sys2Proof
end

