-- ==== Sys2Proof/Laws/Step.lean ====
section
/-! SUPPORT. What a step can do, said once: the ways a cycle answers a next state, and that an undisturbed step fetches the
bytes at pc and runs what they decode to. -/
namespace Sys2Proof.Machine

variable {s t u : State}

/-- A step to a next state is a cycle of a core that is not halted, ended by the tick (R130). -/
theorem step_next (h : step s = .next t) : s.halted = none ∧ ∃ u, s.cycle = .next u ∧ t = u.tick := by
  unfold step at h
  split at h
  · cases h
  · refine ⟨‹_›, ?_⟩
    unfold tickResult at h
    split at h
    · rename_i u hu
      injection h with h
      exact ⟨u, hu, h.symm⟩
    · cases h
    · cases h

/-- The ways a cycle answers a next state (R130): the Reset entry, an interrupt entry, a prefetch abort, an instruction. -/
theorem cycle_cases (h : s.cycle = .next u) :
    (s.resetPending = true ∧ u = s.takeReset) ∨
    (s.resetPending = false ∧ s.mode?.isSome = true ∧ s.pcAligned = true ∧
      ((s.fiqPending = true ∧ psrF s.cpsr = false ∧ u = s.takeFiq) ∨
       (s.irqPending = true ∧ psrI s.cpsr = false ∧ u = s.takeIrq) ∨
       (s.fetch = none ∧ u = s.raise .prefetchAbort s.pc) ∨
       ∃ code i, s.fetch = some code ∧ decode s.params.v4tExtras code = .ok i ∧ exec i s = .next u)) := by
  unfold State.cycle at h
  split at h
  · injection h with h
    exact .inl ⟨‹_›, h.symm⟩
  rename_i hr
  split at h
  · cases h
  rename_i hm
  split at h
  · cases h
  rename_i ha
  refine .inr ⟨by simpa using hr, by simpa [Option.isSome_iff_ne_none] using hm, by simpa using ha, ?_⟩
  split at h
  · rename_i hf
    injection h with h
    simp at hf
    exact .inl ⟨hf.1, hf.2, h.symm⟩
  split at h
  · rename_i hf
    injection h with h
    simp at hf
    exact .inr (.inl ⟨hf.1, hf.2, h.symm⟩)
  refine .inr (.inr ?_)
  unfold State.runFetched at h
  split at h
  · injection h with h
    exact .inl ⟨‹_›, h.symm⟩
  rename_i code hc
  split at h
  · cases h
  rename_i i hi
  exact .inr ⟨code, i, hc, hi, h⟩

/-- With no request taken at the boundary of a legal state, the step is the instruction at pc. -/
theorem step_of_boundary (h : s.Inv) (hh : s.halted = none) (hr : s.resetPending = false)
    (hf : (s.fiqPending && !psrF s.cpsr) = false) (hi : (s.irqPending && !psrI s.cpsr) = false) :
    step s = tickResult s.runFetched := by
  have hm : s.mode?.isNone = false := by
    have := h.mode
    cases hx : s.mode? <;> simp [hx] at this ⊢
  simp only [step, hh, State.cycle, hr, hm, h.pc, hf, hi]
  rfl

/-- A fetch is a word in ARM state and a halfword in THUMB state (R132). -/
theorem State.fetch_code {code : Code} (h : s.fetch = some code) :
    (match code with | .arm _ => false | .thumb _ => true) = psrT s.cpsr := by
  unfold State.fetch at h
  split at h
  · rename_i hT
    cases hh : s.memReadHalf true s.pc <;> simp [hh] at h
    subst h
    exact hT.symm
  · rename_i hT
    cases hh : s.memReadWord true s.pc <;> simp [hh] at h
    subst h
    simpa using hT

/-- What decodes is of the instruction set of its bits. -/
theorem decode_isThumb {extras : Bool} {code : Code} {i : Instr} (h : decode extras code = .ok i) :
    i.isThumb = (match code with | .arm _ => false | .thumb _ => true) := by
  cases code with
  | arm w =>
    simp only [decode, decodeArm] at h
    split at h
    · cases h
    · rename_i r hr
      split at h
      · cases h
      · cases h
        exact (build_arm r (List.mem_of_find?_eq_some hr) w).1
  | thumb w =>
    simp only [decode, decodeThumb] at h
    split at h
    · cases h
    · rename_i r hr
      split at h
      · cases h
      · cases h
        exact (build_thumb r (List.mem_of_find?_eq_some hr) w).1

/-- From storage a fetch that completes gives the bytes at pc, in the order the decoder takes them (R63). -/
theorem State.fetch_bytes (h : s.Inv) (hf : s.answers true s.pc = true) (hd : s.isDevice s.pc = false) :
    ∃ code, s.fetch = some code ∧ ∀ extras, decodeBytes extras (psrT s.cpsr)
      ((List.range (if psrT s.cpsr then 2 else 4)).map (fun k => s.mem.read (s.pc.toNat + k)))
        = (decode extras code).map (·, []) := by
  have hp := h.pc
  rw [State.pcAligned_iff] at hp
  have hlt := s.pc.isLt
  have hb : ∀ k, s.pc.toNat + k < 2 ^ 32 → s.mem.read (s.pc.toNat + k) = s.mem.byteAt s.pc k := by
    intro k hk
    rw [Memory.byteAt]
    congr 1
    rw [BitVec.toNat_add]
    simp
    omega
  cases hT : psrT s.cpsr <;> simp [hT] at hp
  · refine ⟨.arm (s.mem.readWord s.pc), ?_, fun extras => ?_⟩
    · simp only [State.fetch, hT]
      simp [State.memReadWord, State.memRead, hf, hd]
    · have e : (List.range (if false = true then 2 else 4)).map (fun k => s.mem.read (s.pc.toNat + k)) =
          [s.mem.byteAt s.pc 0, s.mem.byteAt s.pc 1, s.mem.byteAt s.pc 2, s.mem.byteAt s.pc 3] := by
        rw [← hb 0 (by omega), ← hb 1 (by omega), ← hb 2 (by omega), ← hb 3 (by omega)]
        rfl
      rw [e]
      rfl
  · refine ⟨.thumb (s.mem.readHalf s.pc), ?_, fun extras => ?_⟩
    · simp only [State.fetch, hT]
      simp [State.memReadHalf, State.memRead, hf, hd]
    · have e : (List.range (if true = true then 2 else 4)).map (fun k => s.mem.read (s.pc.toNat + k)) =
          [s.mem.byteAt s.pc 0, s.mem.byteAt s.pc 1] := by
        rw [← hb 0 (by omega), ← hb 1 (by omega)]
        rfl
      rw [e]
      rfl

end Sys2Proof.Machine
end

