-- ==== Sys2Proof/Tests/Slice0.lean ====
section
/-! SUPPORT. Tests. The words and the expected values come from spec/: the encodings of 30_encoding.md and 47_thumb.md, the
vectors of 95_test_vectors.md (named by their numbers there), and hand calculation from the rules; never from the model. Each
run is one step. After them, for every statement that has hypotheses, a state that meets them. -/
namespace Sys2Proof.Tests
open Sys2Proof Sys2Proof.Machine
set_option Elab.async false

/-- Why a decoder refuses, if it does. -/
def refusal {α : Type} : Except DecodeError α → Option DecodeError
  | .ok _ => none
  | .error e => some e

/-! ### Well-formedness (R4, R110) -/

/-- One instruction of each of the 18 rows outside the tag list: ill-formed, and refused by the decoder, without V4T_EXTRAS. -/
theorem test_illformed_without_extras : ([
    .umull .al false 1 0 3 2, .umlal .al false 1 0 3 2, .smull .al false 1 0 3 2, .smlal .al false 1 0 3 2,
    .strhR .al true true false 1 0 2, .strhI .al true true false 1 0 0x0#4 0x2#4,
    .ldrhR .al true true false 1 0 2, .ldrhI .al true true false 1 0 0x0#4 0x2#4,
    .ldrsbR .al true true false 1 0 2, .ldrsbI .al true true false 1 0 0x0#4 0x2#4,
    .ldrshR .al true true false 1 0 2, .ldrshI .al true true false 1 0 0x0#4 0x2#4,
    .tStrhR 2 1 0, .tLdsbR 2 1 0, .tLdrhR 2 1 0, .tLdshR 2 1 0, .tStrhI 0b00001#5 1 0, .tLdrhI 0b00001#5 1 0] :
    List Instr).all (fun i => !i.wellFormed false && i.wellFormed true &&
      decide (refusal (decode false (encode i)) = some .needsExtras)) = true := by decide +kernel

/-! ### Decoding: words written out bit by bit from the spec's encodings (R94 to R109, R250) -/

/-- Each word decodes to its instruction. -/
def reads (l : List (Code × Instr)) : Bool := l.all (fun p => decide ((decode true p.1).toOption = some p.2))

theorem test_decode_and_to_add : reads [
  (.arm 0b1110_0010_0000_1001_0011_1101_1010_0000#32, .andI .al false 9 3 0xD#4 0xA0#8),
  (.arm 0b0001_0000_0000_1010_0100_1011_0100_0010#32, .andR .ne false 10 4 0x16#5 .asr 2),
  (.arm 0b1100_0000_0000_1011_0101_1111_0111_0011#32, .andS .gt false 11 5 15 .ror 3),
  (.arm 0b0011_0010_0010_1100_0110_0000_1011_0101#32, .eorI .cc false 12 6 0x0#4 0xB5#8),
  (.arm 0b1110_0000_0011_1101_0111_1011_0010_0101#32, .eorR .al true 13 7 0x16#5 .lsr 5),
  (.arm 0b0001_0000_0011_1110_1000_0010_0101_0110#32, .eorS .ne true 14 8 2 .asr 6),
  (.arm 0b1100_0010_0101_1111_1001_0011_1010_1010#32, .subI .gt true 15 9 0x3#4 0xAA#8),
  (.arm 0b0011_0000_0101_0000_1010_1011_0000_1000#32, .subR .cc true 0 10 0x16#5 .lsl 8),
  (.arm 0b1110_0000_0100_0001_1011_0101_0011_1001#32, .subS .al false 1 11 5 .lsr 9),
  (.arm 0b0001_0010_0110_0010_1100_0110_1011_1111#32, .rsbI .ne false 2 12 0x6#4 0xBF#8),
  (.arm 0b1100_0000_0110_0011_1101_1011_0110_1011#32, .rsbR .gt false 3 13 0x16#5 .ror 11),
  (.arm 0b0011_0000_0110_0100_1110_1000_0001_1100#32, .rsbS .cc false 4 14 8 .lsl 12),
  (.arm 0b1110_0010_1001_0101_1111_1001_1011_0100#32, .addI .al true 5 15 0x9#4 0xB4#8),
  (.arm 0b0001_0000_1001_0110_0000_1011_0100_1110#32, .addR .ne true 6 0 0x16#5 .asr 14),
  (.arm 0b1100_0000_1001_0111_0001_1011_0111_1111#32, .addS .gt true 7 1 11 .ror 15)] = true := by decide +kernel

theorem test_decode_adc_to_teq : reads [
  (.arm 0b0011_0010_1011_1000_0010_1100_1010_1001#32, .adcI .cc true 8 2 0xC#4 0xA9#8),
  (.arm 0b1110_0000_1010_1001_0011_1011_0010_0001#32, .adcR .al false 9 3 0x16#5 .lsr 1),
  (.arm 0b0001_0000_1010_1010_0100_1110_0101_0010#32, .adcS .ne false 10 4 14 .asr 2),
  (.arm 0b1100_0010_1100_1011_0101_1111_1011_1110#32, .sbcI .gt false 11 5 0xF#4 0xBE#8),
  (.arm 0b0011_0000_1100_1100_0110_1011_0000_0100#32, .sbcR .cc false 12 6 0x16#5 .lsl 4),
  (.arm 0b1110_0000_1101_1101_0111_0001_0011_0101#32, .sbcS .al true 13 7 1 .lsr 5),
  (.arm 0b0001_0010_1111_1110_1000_0010_1011_0011#32, .rscI .ne true 14 8 0x2#4 0xB3#8),
  (.arm 0b1100_0000_1111_1111_1001_1011_0110_0111#32, .rscR .gt true 15 9 0x16#5 .ror 7),
  (.arm 0b0011_0000_1111_0000_1010_0100_0001_1000#32, .rscS .cc true 0 10 4 .lsl 8),
  (.arm 0b1110_0011_0001_0001_0000_0101_1010_1000#32, .tstI .al 1 0x5#4 0xA8#8),
  (.arm 0b0001_0001_0001_0010_0000_1011_0100_1010#32, .tstR .ne 2 0x16#5 .asr 10),
  (.arm 0b1100_0001_0001_0011_0000_0111_0111_1011#32, .tstS .gt 3 7 .ror 11),
  (.arm 0b0011_0011_0011_0100_0000_1000_1011_1101#32, .teqI .cc 4 0x8#4 0xBD#8),
  (.arm 0b1110_0001_0011_0101_0000_1011_0010_1101#32, .teqR .al 5 0x16#5 .lsr 13),
  (.arm 0b0001_0001_0011_0110_0000_1010_0101_1110#32, .teqS .ne 6 10 .asr 14)] = true := by decide +kernel

theorem test_decode_cmp_to_mvn : reads [
  (.arm 0b1100_0011_0101_0111_0000_1011_1011_0010#32, .cmpI .gt 7 0xB#4 0xB2#8),
  (.arm 0b0011_0001_0101_1000_0000_1011_0000_0000#32, .cmpR .cc 8 0x16#5 .lsl 0),
  (.arm 0b1110_0001_0101_1001_0000_1101_0011_0001#32, .cmpS .al 9 13 .lsr 1),
  (.arm 0b0001_0011_0111_1010_0000_1110_1010_0111#32, .cmnI .ne 10 0xE#4 0xA7#8),
  (.arm 0b1100_0001_0111_1011_0000_1011_0110_0011#32, .cmnR .gt 11 0x16#5 .ror 3),
  (.arm 0b0011_0001_0111_1100_0000_0000_0001_0100#32, .cmnS .cc 12 0 .lsl 4),
  (.arm 0b1110_0011_1001_1101_0111_0001_1011_1100#32, .orrI .al true 13 7 0x1#4 0xBC#8),
  (.arm 0b0001_0001_1001_1110_1000_1011_0100_0110#32, .orrR .ne true 14 8 0x16#5 .asr 6),
  (.arm 0b1100_0001_1001_1111_1001_0011_0111_0111#32, .orrS .gt true 15 9 3 .ror 7),
  (.arm 0b0011_0011_1011_0000_1010_0100_1011_0001#32, .movI .cc true 10 0x4#4 0xB1#8),
  (.arm 0b1110_0001_1010_0000_1011_1011_0010_1001#32, .movR .al false 11 0x16#5 .lsr 9),
  (.arm 0b0001_0001_1010_0000_1100_0110_0101_1010#32, .movS .ne false 12 6 .asr 10),
  (.arm 0b1100_0011_1100_0011_1101_0111_1010_0110#32, .bicI .gt false 3 13 0x7#4 0xA6#8),
  (.arm 0b0011_0001_1100_0100_1110_1011_0000_1100#32, .bicR .cc false 4 14 0x16#5 .lsl 12),
  (.arm 0b1110_0001_1101_0101_1111_1001_0011_1101#32, .bicS .al true 5 15 9 .lsr 13),
  (.arm 0b0001_0011_1111_0000_0000_1010_1011_1011#32, .mvnI .ne true 0 0xA#4 0xBB#8),
  (.arm 0b1100_0001_1111_0000_0001_1011_0110_1111#32, .mvnR .gt true 1 0x16#5 .ror 15),
  (.arm 0b0011_0001_1111_0000_0010_1100_0001_0000#32, .mvnS .cc true 2 12 .lsl 0)] = true := by decide +kernel

theorem test_decode_status_and_multiply : reads [
  (.arm 0b1110_0001_0000_1111_0011_0000_0000_0000#32, .mrs .al .cpsr 3),
  (.arm 0b0001_0001_0010_1010_1111_0000_0000_0010#32, .msrR .ne .cpsr 0xA#4 2),
  (.arm 0b1100_0011_0110_1011_1111_1111_1011_1110#32, .msrI .gt .spsr 0xB#4 0xF#4 0xBE#8),
  (.arm 0b0011_0001_0010_1111_1111_1111_0001_0100#32, .bx .cc 4),
  (.arm 0b1110_0000_0001_1101_0000_0001_1001_0101#32, .mul .al true 13 1 5),
  (.arm 0b0001_0000_0011_1110_1000_0010_1001_0110#32, .mla .ne true 14 8 2 6),
  (.arm 0b1100_0000_1001_1111_1001_0011_1001_0111#32, .umull .gt true 15 9 3 7),
  (.arm 0b0011_0000_1011_0000_1010_0100_1001_1000#32, .umlal .cc true 0 10 4 8),
  (.arm 0b1110_0000_1100_0001_1011_0101_1001_1001#32, .smull .al false 1 11 5 9),
  (.arm 0b0001_0000_1110_0010_1100_0110_1001_1010#32, .smlal .ne false 2 12 6 10),
  (.arm 0b1100_0001_0000_0011_1101_0000_1001_1011#32, .swp .gt 3 13 11),
  (.arm 0b0011_0001_0100_0100_1110_0000_1001_1100#32, .swpb .cc 4 14 12)] = true := by decide +kernel

theorem test_decode_single_transfer : reads [
  (.arm 0b1110_0000_1000_0101_1111_0000_1011_1101#32, .strhR .al false true false 5 15 13),
  (.arm 0b0001_0001_1110_0110_0000_1010_1011_1110#32, .strhI .ne true true true 6 0 0xA#4 0xE#4),
  (.arm 0b1100_0000_1001_0111_0001_0000_1011_1111#32, .ldrhR .gt false true false 7 1 15),
  (.arm 0b0011_0001_1111_1000_0010_1100_1011_0000#32, .ldrhI .cc true true true 8 2 0xC#4 0x0#4),
  (.arm 0b1110_0000_0001_1001_0011_0000_1101_0001#32, .ldrsbR .al false false false 9 3 1),
  (.arm 0b0001_0001_0111_1010_0100_1110_1101_0010#32, .ldrsbI .ne true false true 10 4 0xE#4 0x2#4),
  (.arm 0b1100_0000_0001_1011_0101_0000_1111_0011#32, .ldrshR .gt false false false 11 5 3),
  (.arm 0b0011_0001_0111_1100_0110_0000_1111_0100#32, .ldrshI .cc true false true 12 6 0x0#4 0x4#4),
  (.arm 0b1110_0100_1001_1101_0111_1010_0000_0101#32, .ldrI .al false true false 13 7 0xA05#12),
  (.arm 0b0001_0111_1011_1110_1000_1011_0100_0110#32, .ldrR .ne true true true 14 8 0x16#5 .asr 6),
  (.arm 0b1100_0100_1101_1111_1001_1010_0000_0101#32, .ldrbI .gt false true false 15 9 0xA05#12),
  (.arm 0b0011_0111_1111_0000_1010_1011_0000_1000#32, .ldrbR .cc true true true 0 10 0x16#5 .lsl 8),
  (.arm 0b1110_0100_0000_0001_1011_1010_0000_0101#32, .strI .al false false false 1 11 0xA05#12),
  (.arm 0b0001_0111_0010_0010_1100_1011_0100_1010#32, .strR .ne true false true 2 12 0x16#5 .asr 10),
  (.arm 0b1100_0100_0100_0011_1101_1010_0000_0101#32, .strbI .gt false false false 3 13 0xA05#12),
  (.arm 0b0011_0111_0110_0100_1110_1011_0000_1100#32, .strbR .cc true false true 4 14 0x16#5 .lsl 12),
  (.arm 0b1110_0111_0110_0000_0000_0000_0011_1001#32, .undefined .al 0b10110000000000000001#20 0b1001#4)] = true := by decide +kernel

theorem test_decode_block_branch_coprocessor : reads [
  (.arm 0b0001_1001_1011_0110_1001_0000_0000_0101#32, .ldm .ne true true false true 6 0x9005#16),
  (.arm 0b1100_1000_1100_0111_1001_0000_0000_0101#32, .stm .gt false true true false 7 0x9005#16),
  (.arm 0b0011_1010_1111_1111_1111_1111_1010_1101#32, .b .cc 0xFFFFAD#24),
  (.arm 0b1110_1011_1111_1111_1111_1111_1010_1100#32, .bl .al 0xFFFFAC#24),
  (.arm 0b0001_1101_0011_1010_0100_1110_1011_0111#32, .ldc .ne true false false true 10 0x4#4 0xE#4 0xB7#8),
  (.arm 0b1100_1100_0100_1011_0101_1111_1011_1110#32, .stc .gt false false true false 11 0x5#4 0xF#4 0xBE#8),
  (.arm 0b0011_1110_0010_1100_0110_0000_0100_0100#32, .cdp .cc 0x2#4 0xC#4 0x6#4 0x0#4 0x2#3 0x4#4),
  (.arm 0b1110_1110_0111_1101_0111_0001_0111_0101#32, .mrc .al 0x3#3 0xD#4 7 0x1#4 0x3#3 0x5#4),
  (.arm 0b0001_1110_1000_1110_1000_0010_1001_0110#32, .mcr .ne 0x4#3 0xE#4 8 0x2#4 0x4#3 0x6#4),
  (.arm 0b1100_1111_1111_1111_1111_1111_1010_0110#32, .swi .gt 0xFFFFA6#24)] = true := by decide +kernel

theorem test_decode_thumb_1_to_4 : reads [
  (.thumb 0b0000_0000_0101_1000#16, .tLslI 0x01#5 3 0),
  (.thumb 0b0000_1000_1010_0001#16, .tLsrI 0x02#5 4 1),
  (.thumb 0b0001_0000_1110_1010#16, .tAsrI 0x03#5 5 2),
  (.thumb 0b0001_1001_0011_0011#16, .tAddR 4 6 3),
  (.thumb 0b0001_1011_0111_1100#16, .tSubR 5 7 4),
  (.thumb 0b0001_1101_1000_0101#16, .tAddI3 0x6#3 0 5),
  (.thumb 0b0001_1111_1100_1110#16, .tSubI3 0x7#3 1 6),
  (.thumb 0b0010_0011_1011_0010#16, .tMovI 3 0xB2#8),
  (.thumb 0b0010_1100_1011_1001#16, .tCmpI 4 0xB9#8),
  (.thumb 0b0011_0101_1010_0000#16, .tAddI8 5 0xA0#8),
  (.thumb 0b0011_1110_1010_0111#16, .tSubI8 6 0xA7#8),
  (.thumb 0b0100_0000_0011_0011#16, .tAnd 6 3),
  (.thumb 0b0100_0000_0111_1100#16, .tEor 7 4),
  (.thumb 0b0100_0000_1000_0101#16, .tLslR 0 5),
  (.thumb 0b0100_0000_1100_1110#16, .tLsrR 1 6),
  (.thumb 0b0100_0001_0001_0111#16, .tAsrR 2 7),
  (.thumb 0b0100_0001_0101_1000#16, .tAdc 3 0),
  (.thumb 0b0100_0001_1010_0001#16, .tSbc 4 1),
  (.thumb 0b0100_0001_1110_1010#16, .tRorR 5 2),
  (.thumb 0b0100_0010_0011_0011#16, .tTst 6 3),
  (.thumb 0b0100_0010_0111_1100#16, .tNeg 7 4),
  (.thumb 0b0100_0010_1000_0101#16, .tCmpR 0 5),
  (.thumb 0b0100_0010_1100_1110#16, .tCmn 1 6),
  (.thumb 0b0100_0011_0001_0111#16, .tOrr 2 7),
  (.thumb 0b0100_0011_0101_1000#16, .tMul 3 0),
  (.thumb 0b0100_0011_1010_0001#16, .tBic 4 1),
  (.thumb 0b0100_0011_1110_1010#16, .tMvn 5 2)] = true := by decide +kernel

theorem test_decode_thumb_5_to_12 : reads [
  (.thumb 0b0100_0100_0101_1101#16, .tAddHi 11 5),
  (.thumb 0b0100_0101_0110_0110#16, .tCmpHi 12 6),
  (.thumb 0b0100_0110_0110_1111#16, .tMovHi 13 7),
  (.thumb 0b0100_0111_0111_0000#16, .tBx 14),
  (.thumb 0b0100_1011_1011_1010#16, .tLdrPc 3 0xBA#8),
  (.thumb 0b0101_0000_0101_1000#16, .tStrR 1 3 0),
  (.thumb 0b0101_0100_1010_0001#16, .tStrbR 2 4 1),
  (.thumb 0b0101_1000_1110_1010#16, .tLdrR 3 5 2),
  (.thumb 0b0101_1101_0011_0011#16, .tLdrbR 4 6 3),
  (.thumb 0b0101_0011_0111_1100#16, .tStrhR 5 7 4),
  (.thumb 0b0101_0111_1000_0101#16, .tLdsbR 6 0 5),
  (.thumb 0b0101_1011_1100_1110#16, .tLdrhR 7 1 6),
  (.thumb 0b0101_1110_0001_0111#16, .tLdshR 0 2 7),
  (.thumb 0b0110_0010_0101_1000#16, .tStrI 0x09#5 3 0),
  (.thumb 0b0110_1010_1010_0001#16, .tLdrI 0x0A#5 4 1),
  (.thumb 0b0111_0010_1110_1010#16, .tStrbI 0x0B#5 5 2),
  (.thumb 0b0111_1011_0011_0011#16, .tLdrbI 0x0C#5 6 3),
  (.thumb 0b1000_0011_0111_1100#16, .tStrhI 0x0D#5 7 4),
  (.thumb 0b1000_1011_1000_0101#16, .tLdrhI 0x0E#5 0 5),
  (.thumb 0b1001_0010_1010_0011#16, .tStrSp 2 0xA3#8),
  (.thumb 0b1001_1011_1010_1010#16, .tLdrSp 3 0xAA#8),
  (.thumb 0b1010_0100_1011_0001#16, .tAddPc 4 0xB1#8),
  (.thumb 0b1010_1101_1011_1000#16, .tAddSp 5 0xB8#8)] = true := by decide +kernel

theorem test_decode_thumb_13_to_19 : reads [
  (.thumb 0b1011_0000_0000_1010#16, .tSpAdd 0x0A#7),
  (.thumb 0b1011_0000_1000_1011#16, .tSpSub 0x0B#7),
  (.thumb 0b1011_0100_1010_1101#16, .tPush false 0xAD#8),
  (.thumb 0b1011_1101_1011_0100#16, .tPop true 0xB4#8),
  (.thumb 0b1100_0010_1011_1011#16, .tStmia 2 0xBB#8),
  (.thumb 0b1100_1011_1010_0010#16, .tLdmia 3 0xA2#8),
  (.thumb 0b1101_0000_1010_1001#16, .tBeq 0xA9#8),
  (.thumb 0b1101_0001_1011_0000#16, .tBne 0xB0#8),
  (.thumb 0b1101_0010_1011_0111#16, .tBcs 0xB7#8),
  (.thumb 0b1101_0011_1011_1110#16, .tBcc 0xBE#8),
  (.thumb 0b1101_0100_1010_0101#16, .tBmi 0xA5#8),
  (.thumb 0b1101_0101_1010_1100#16, .tBpl 0xAC#8),
  (.thumb 0b1101_0110_1011_0011#16, .tBvs 0xB3#8),
  (.thumb 0b1101_0111_1011_1010#16, .tBvc 0xBA#8),
  (.thumb 0b1101_1000_1010_0001#16, .tBhi 0xA1#8),
  (.thumb 0b1101_1001_1010_1000#16, .tBls 0xA8#8),
  (.thumb 0b1101_1010_1010_1111#16, .tBge 0xAF#8),
  (.thumb 0b1101_1011_1011_0110#16, .tBlt 0xB6#8),
  (.thumb 0b1101_1100_1011_1101#16, .tBgt 0xBD#8),
  (.thumb 0b1101_1101_1010_0100#16, .tBle 0xA4#8),
  (.thumb 0b1101_1110_1010_0101#16, .tUndefined 0xA5#8),
  (.thumb 0b1101_1111_1011_0010#16, .tSwi 0xB2#8),
  (.thumb 0b1110_0100_0000_0011#16, .tB 0x403#11),
  (.thumb 0b1111_0100_0000_0111#16, .tBlFirst 0x407#11),
  (.thumb 0b1111_1100_0000_1011#16, .tBlSecond 0x40B#11)] = true := by decide +kernel

/-- Words that are no instruction of the core (R111; J10, T31, T54), and bytes that end too early. -/
theorem test_no_match :
    refusal (decode true (.arm 0xE12FFF30#32)) = some .noMatch ∧ refusal (decode true (.thumb 0x4780#16)) = some .noMatch ∧
    refusal (decode true (.thumb 0xE800#16)) = some .noMatch ∧ refusal (decode true (.thumb 0xBF00#16)) = some .noMatch ∧
    refusal (decode true (.thumb 0xB100#16)) = some .noMatch ∧
    refusal (decodeBytes true true [0x88#8]) = some .truncated ∧
    refusal (decodeBytes true false [0x02#8, 0x00#8, 0x91#8]) = some .truncated := by
  decide +kernel

/-- Bytes lie least significant first, and what follows the instruction is left (R63, R90). -/
theorem test_decode_bytes :
    (decodeBytes true false [0x02#8, 0x00#8, 0x91#8, 0xE0#8, 0x55#8]).toOption =
      some (.addR .al true 1 0 0b00000#5 .lsl 2, [0x55#8]) ∧
    (decodeBytes true true [0x88#8, 0x18#8, 0x55#8]).toOption = some (.tAddR 2 1 0, [0x55#8]) ∧
    decodeTableWord 32 0xE0910002 = some (.addR .al true 1 0 0b00000#5 .lsl 2) ∧
    decodeTableWord 16 0x1888 = some (.tAddR 2 1 0) := by
  decide +kernel

/-! ### One step -/

/-- A core with the given CPSR, pc, registers of the current mode and words of memory; everything else as after reset. -/
def core (cpsr pc : Word) (regs : List (Reg × Word)) (words : List (Nat × Word)) : State :=
  let s : State := { State.reset with
    cpsr := cpsr, pc := pc, spsrDef := ⟨false, false, false, false, false⟩,
    mem := words.foldl (fun mem p => mem.writeBytes (BitVec.ofNat 32 p.1) (wordBytes p.2)) [] }
  regs.foldl (fun s p => s.hostWriteBank (s.mode?.getD .usr) p.1 p.2) s

/-- The start of the ARM vectors: System mode at 0x8000. -/
def arm (regs : List (Reg × Word)) (words : List (Nat × Word) := []) : State := core 0x0000001F#32 0x8000#32 regs words

/-- The start of the THUMB vectors: System mode at 0x100. -/
def thumb (regs : List (Reg × Word)) (words : List (Nat × Word) := []) : State := core 0x0000003F#32 0x100#32 regs words

/-- With the four flags N, Z, C, V. -/
def flags (nzcv : BitVec 4) (s : State) : State := { s with cpsr := nzcv ++ s.cpsr.extractLsb' 0 28 }

/-- With an absent window from `base`, `size` bytes long. -/
def hole (base size : Nat) (s : State) : State := { s with regions := [⟨base, size, .absent⟩] }

/-- R`i` of the current mode. -/
def r (s : State) (i : Reg) : Word := s.hostReadBank (s.mode?.getD .usr) i

def nzcv (s : State) : BitVec 4 := s.cpsr.extractLsb' 28 4
def word (s : State) (a : Nat) : Word := s.mem.readWord (BitVec.ofNat 32 a)

/-- The state with the instruction `w` of its instruction set where it fetches. -/
def placed (s : State) (w : Nat) : State := s.withFetchWord (if psrT s.cpsr then 16 else 32) w

/-- One step that runs `w` answers a next state of which `p` holds. -/
def ran (s : State) (w : Nat) (p : State → Bool) : Bool :=
  match step (placed s w) with
  | .next t => p t
  | .fault _ => false
  | .refused _ => false

/-- One step that runs `w` is the violation `v`. -/
def halts (s : State) (w : Nat) (v : Violation) : Bool :=
  match step (placed s w) with
  | .next _ => false
  | .fault f => decide (f = .violation v)
  | .refused _ => false

/-- One step that runs `w` leaves these registers, these flags, and pc past the instruction. -/
def gives (s : State) (w : Nat) (regs : List (Reg × Word)) (f : BitVec 4) : Bool :=
  ran s w (fun t => regs.all (fun p => r t p.1 == p.2) && nzcv t == f && t.pc == s.pc + s.isz)

/-- One step that runs `w` leaves these registers and words of memory, the flags, and pc past the instruction. -/
def moves (s : State) (w : Nat) (regs : List (Reg × Word)) (words : List (Nat × Word)) : Bool :=
  ran s w (fun t => regs.all (fun p => r t p.1 == p.2) && words.all (fun p => word t p.1 == p.2) &&
    t.cpsr == s.cpsr && t.pc == s.pc + s.isz)

/-- One step that runs `w` goes to `pc` with `cpsr`. -/
def goes (s : State) (w : Nat) (cpsr pc : Word) : Bool := ran s w (fun t => t.cpsr == cpsr && t.pc == pc)

/-- One step that runs `w` enters an exception: CPSR, the SPSR and R14 of its mode, pc. -/
def enters (s : State) (w : Nat) (e : ExcMode) (cpsr spsr link pc : Word) : Bool :=
  ran s w (fun t => t.cpsr == cpsr && t.spsr.get e == spsr && t.spsrDef.get e && r t 14 == link && t.pc == pc)

/-! Data processing, ARM (2.1). -/
theorem test_S4_adds : gives (arm [(1, 0x7FFFFFFF), (2, 1)]) 0xE0910002 [(0, 0x80000000)] 0b1001 = true := by decide +kernel
theorem test_D2_adds : gives (arm [(1, 0x80000000), (2, 0x80000000)]) 0xE0910002 [(0, 0)] 0b0111 = true := by decide +kernel
theorem test_S5_subs : gives (arm []) 0xE2500001 [(0, 0xFFFFFFFF)] 0b1000 = true := by decide +kernel
theorem test_D3_subs : gives (arm [(1, 0x80000000), (2, 1)]) 0xE0510002 [(0, 0x7FFFFFFF)] 0b0011 = true := by decide +kernel
theorem test_D5_cmp : gives (arm [(0, 1), (1, 2)]) 0xE1500001 [(0, 1), (1, 2)] 0b1000 = true := by decide +kernel
theorem test_D6_adcs : gives (flags 0b0010 (arm [(1, 0xFFFFFFFF)])) 0xE0B11003 [(1, 0)] 0b0110 = true := by decide +kernel
theorem test_D7_sbcs : gives (arm [(1, 5), (3, 5)]) 0xE0D11003 [(1, 0xFFFFFFFF)] 0b1000 = true := by decide +kernel
theorem test_D8_rscs : gives (flags 0b0010 (arm [(2, 1)])) 0xE2F21000 [(1, 0xFFFFFFFF)] 0b1000 = true := by decide +kernel
theorem test_D9_rscs : gives (arm [(2, 1)]) 0xE2F21000 [(1, 0xFFFFFFFE)] 0b1000 = true := by decide +kernel
theorem test_D10_rsbs : gives (arm [(1, 0x80000000)]) 0xE2710000 [(0, 0x80000000)] 0b1001 = true := by decide +kernel
theorem test_D11_cmn : gives (arm [(0, 0xFFFFFFFF)]) 0xE3700001 [(0, 0xFFFFFFFF)] 0b0110 = true := by decide +kernel
theorem test_D12_teq : gives (flags 0b0011 (arm [(0, 0x55), (1, 0x55)])) 0xE1300001 [] 0b0111 = true := by decide +kernel
theorem test_D13_tst : gives (arm []) 0xE3100102 [] 0b0110 = true := by decide +kernel
theorem test_D14_ands : gives (flags 0b0010 (arm [(1, 0x12345600)])) 0xE21100FF [(0, 0)] 0b0110 = true := by decide +kernel
theorem test_D15_eors : gives (arm [(1, 0xF0F0F0F0), (2, 0x0F0F0F0F)]) 0xE0310002 [(0, 0xFFFFFFFF)] 0b1000 = true := by decide +kernel
theorem test_D16_orrs : gives (arm []) 0xE3900080 [(0, 0x80)] 0b0000 = true := by decide +kernel
theorem test_D17_bics : gives (arm [(0, 0x1F)]) 0xE3D0001F [(0, 0)] 0b0100 = true := by decide +kernel
theorem test_D18_mvns : gives (arm []) 0xE1F00001 [(0, 0xFFFFFFFF)] 0b1000 = true := by decide +kernel
theorem test_D19_movs : gives (arm []) 0xE3B00102 [(0, 0x80000000)] 0b1010 = true := by decide +kernel
theorem test_D34_mov_pc : gives (arm []) 0xE1A0000F [(0, 0x8008)] 0b0000 = true := by decide +kernel
theorem test_D35_add_pc_shifted : gives (arm []) 0xE08F0211 [(0, 0x800C)] 0b0000 = true := by decide +kernel
theorem test_D36_addeq : gives (arm [(0, 7)]) 0x02800001 [(0, 7)] 0b0000 = true := by decide +kernel
theorem test_D37_mov_to_pc : goes (arm [(0, 0x9003)]) 0xE1A0F000 0x0000001F#32 0x9000#32 = true := by decide +kernel
theorem test_D38_exception_return : goes ({ core 0x00000092#32 0x8000#32 [(14, 0x8006)] [] with
    spsr := ⟨0, 0, 0, 0x60000030, 0⟩, spsrDef := ⟨false, false, false, true, false⟩ }) 0xE25EF004 0x60000030#32 0x8002#32
    = true := by decide +kernel
theorem test_D39_no_spsr : halts (core 0x00000010#32 0x8000#32 [] []) 0xE1B0F00E .noSPSR = true := by decide +kernel
theorem test_D40_undefined_spsr : halts (core 0x00000013#32 0x8000#32 [] []) 0xE1B0F00E .undefinedSPSR = true := by decide +kernel
theorem test_D41_shift_by_pc : halts (arm []) 0xE1A00F11 .unpredictable = true := by decide +kernel
/-- R151: Rd = 15 in form DPS, without S and with it (D31). -/
theorem test_shift_by_register_to_pc : halts (arm [(1, 0x9000)]) 0xE1A0F211 .unpredictable = true ∧
    halts (arm [(1, 0x9000)]) 0xE091F211 .unpredictable = true := by decide +kernel

/-! The tables of R151 at their boundaries (D20 to D33). -/
theorem test_shift_by_immediate :
    gives (arm [(1, 0x80000000)]) 0xE1B00021 [(0, 0)] 0b0110 = true ∧
    gives (arm [(1, 0x80000000)]) 0xE1B00041 [(0, 0xFFFFFFFF)] 0b1010 = true ∧
    gives (flags 0b0010 (arm [(1, 1)])) 0xE1B00061 [(0, 0x80000000)] 0b1010 = true ∧
    gives (arm [(1, 1)]) 0xE1B00061 [(0, 0)] 0b0110 = true := by decide +kernel
theorem test_shift_by_register_left :
    gives (arm [(1, 1), (2, 32)]) 0xE1B00211 [(0, 0)] 0b0110 = true ∧
    gives (flags 0b0010 (arm [(1, 1), (2, 33)])) 0xE1B00211 [(0, 0)] 0b0100 = true ∧
    gives (flags 0b0010 (arm [(1, 1), (2, 0x100)])) 0xE1B00211 [(0, 1)] 0b0010 = true ∧
    gives (arm [(1, 3), (2, 31)]) 0xE1B00211 [(0, 0x80000000)] 0b1010 = true := by decide +kernel
theorem test_shift_by_register_right :
    gives (arm [(1, 0x80000000), (2, 32)]) 0xE1B00231 [(0, 0)] 0b0110 = true ∧
    gives (flags 0b0010 (arm [(1, 0x80000000), (2, 33)])) 0xE1B00231 [(0, 0)] 0b0100 = true ∧
    gives (arm [(1, 0x80000000), (2, 40)]) 0xE1B00251 [(0, 0xFFFFFFFF)] 0b1010 = true ∧
    gives (arm [(1, 0x80000001), (2, 32)]) 0xE1B00271 [(0, 0x80000001)] 0b1010 = true ∧
    gives (arm [(1, 0x80000001), (2, 36)]) 0xE1B00271 [(0, 0x18000000)] 0b0000 = true ∧
    gives (flags 0b0010 (arm [(1, 0x80000001), (2, 0)])) 0xE1B00271 [(0, 0x80000001)] 0b1010 = true := by decide +kernel

/-! Multiply (2.2). The flags that R180 leaves free are not looked at. -/
theorem test_M1_mul : gives (arm [(1, 7), (2, 6)]) 0xE0000291 [(0, 42)] 0b0000 = true := by decide +kernel
theorem test_M2_muls : ran (arm [(1, 0xFFFFFFFF), (2, 0xFFFFFFFF)]) 0xE0100291 (fun t => r t 0 == 1) = true := by decide +kernel
theorem test_M4_mla : gives (arm [(1, 7), (2, 6), (3, 0xFFFFFFFF)]) 0xE0203291 [(0, 41)] 0b0000 = true := by decide +kernel
theorem test_M5_mlas : ran (arm [(1, 0x10000), (2, 0x8000)]) 0xE0303291 (fun t => r t 0 == 0x80000000) = true := by
  decide +kernel
theorem test_M6_mul_same : halts (arm []) 0xE0000190 .unpredictable = true := by decide +kernel
theorem test_M7_extras_off : halts { arm [] with params := { Config.params with v4tExtras := false } } 0xE0810392
    .noMatchingOpcode = true := by decide +kernel
theorem test_M8_umull : gives (arm [(2, 0xFFFFFFFF), (3, 0xFFFFFFFF)]) 0xE0810392 [(1, 0xFFFFFFFE), (0, 1)] 0b0000 = true := by
  decide +kernel
theorem test_M9_umlal : gives (arm [(2, 2), (3, 3), (0, 0xFFFFFFFF)]) 0xE0A10392 [(1, 1), (0, 5)] 0b0000 = true := by
  decide +kernel
theorem test_M10_smull : gives (arm [(2, 0xFFFFFFFF), (3, 2)]) 0xE0C10392 [(1, 0xFFFFFFFF), (0, 0xFFFFFFFE)] 0b0000 = true := by
  decide +kernel
theorem test_M11_smull : gives (arm [(2, 0x80000000), (3, 0x80000000)]) 0xE0C10392 [(1, 0x40000000), (0, 0)] 0b0000 = true := by
  decide +kernel
theorem test_M12_smlals : ran (arm [(2, 0xFFFFFFFF), (3, 1), (0, 1)]) 0xE0F10392 (fun t => r t 1 == 0 && r t 0 == 0) = true := by
  decide +kernel

/-! Single loads and stores (2.3). -/

/-- The memory of the table. -/
def table : List (Nat × Word) := [(0x2000, 0x44332211), (0x2004, 0xCAFEBABE), (0x2008, 0x88776655), (0x200C, 0x00009003)]

theorem test_L1_ldr_pre : moves (arm [(1, 0x2000)] table) 0xE5B10004 [(0, 0xCAFEBABE), (1, 0x2004)] [] = true := by
  decide +kernel
theorem test_L2_ldr_rotated :
    moves (arm [(1, 0x2001)] table) 0xE5910000 [(0, 0x11443322)] [] = true ∧
    moves (arm [(1, 0x2002)] table) 0xE5910000 [(0, 0x22114433)] [] = true ∧
    moves (arm [(1, 0x2003)] table) 0xE5910000 [(0, 0x33221144)] [] = true := by decide +kernel
theorem test_L5_str : moves (arm [(0, 0xAABBCCDD), (1, 0x2002)] table) 0xE5810000 []
    [(0x2000, 0xAABBCCDD), (0x2004, 0xCAFEBABE)] = true := by decide +kernel
theorem test_L6_ldr_post : moves (arm [(1, 0x2000)] table) 0xE4910004 [(0, 0x44332211), (1, 0x2004)] [] = true ∧
    moves (arm [(1, 0x2000)] table) 0xE4B10004 [(0, 0x44332211), (1, 0x2004)] [] = true := by decide +kernel
theorem test_L8_ldr_register : moves (arm [(1, 0x2010), (2, 2)] table) 0xE7110102 [(0, 0x88776655), (1, 0x2010)] [] = true := by
  decide +kernel
theorem test_L9_str_pc : moves (arm [(1, 0x2000)] table) 0xE581F000 [] [(0x2000, 0x0000800C)] = true := by decide +kernel
theorem test_L10_ldr_to_pc : goes (arm [(1, 0x200C)] table) 0xE591F000 0x0000001F#32 0x9000#32 = true := by decide +kernel
theorem test_L11_ldr_literal : moves (arm [] [(0x800C, 0xFEEDF00D)]) 0xE59F0004 [(0, 0xFEEDF00D)] [] = true := by decide +kernel
theorem test_L12_ldrb : moves (arm [(1, 0x2007)] table) 0xE5D10000 [(0, 0x000000CA)] [] = true := by decide +kernel
theorem test_L13_strb : moves (arm [(0, 0x12345678), (1, 0x2001)] table) 0xE5C10000 [] [(0x2000, 0x44337811)] = true := by
  decide +kernel
theorem test_L14_ldr_abort : ran (hole 0x4000 0x4000 (flags 0b0110 (arm [(0, 0x55), (1, 0x3FFC)]))) 0xE5B10004 (fun t =>
    r t 0 == 0x55 && r t 1 == 0x4000 && t.cpsr == 0x60000097 && t.spsr.abt == 0x6000001F && r t 14 == 0x8008 &&
    t.pc == 0x10) = true := by decide +kernel
theorem test_L15_str_abort : enters (hole 0x4000 0x4000 (arm [(1, 0x4000)])) 0xE5810000 .abt 0x00000097#32 0x0000001F#32
    0x8008#32 0x10#32 = true := by decide +kernel
theorem test_L16_ldr_same : halts (arm []) 0xE4900004 .unpredictable = true := by decide +kernel
theorem test_L18_ldrh : moves (arm [(1, 0x2004)] table) 0xE1D100B2 [(0, 0x0000CAFE)] [] = true := by decide +kernel
theorem test_L19_ldrsb : moves (arm [(1, 0x2007)] table) 0xE1D100D0 [(0, 0xFFFFFFCA)] [] = true := by decide +kernel
theorem test_L20_ldrsh : moves (arm [(1, 0x2000), (2, 4)] table) 0xE19100F2 [(0, 0xFFFFBABE)] [] = true := by decide +kernel
theorem test_L21_strh : moves (arm [(0, 0x12345678), (1, 0x2002)] table) 0xE1C100B0 [] [(0x2000, 0x56782211)] = true := by
  decide +kernel
theorem test_L22_ldrh_odd : halts (arm [(1, 0x2001)] table) 0xE1D100B0 .unpredictable = true := by decide +kernel

/-! Block transfers and swap (2.4). -/
theorem test_B1_ldmia : ran (arm [(13, 0x3000)] [(0x3000, 1), (0x3004, 2), (0x3008, 3), (0x300C, 4), (0x3010, 0x00008001)])
    0xE8BD800F (fun t => r t 0 == 1 && r t 1 == 2 && r t 2 == 3 && r t 3 == 4 && r t 13 == 0x3014 && t.pc == 0x8000 &&
      t.cpsr == 0x1F) = true := by decide +kernel
theorem test_B2_stmdb : moves (arm [(0, 0xA), (1, 0xB), (2, 0xC), (3, 0xD), (13, 0x3014), (14, 0x8123)]) 0xE92D400F
    [(13, 0x3000)] [(0x3000, 0xA), (0x3004, 0xB), (0x3008, 0xC), (0x300C, 0xD), (0x3010, 0x8123)] = true := by decide +kernel
theorem test_B3_stmib : moves (arm [(0, 0x2000), (1, 0x11), (2, 0x22)] table) 0xE9800006 [(0, 0x2000)]
    [(0x2000, 0x44332211), (0x2004, 0x11), (0x2008, 0x22)] = true := by decide +kernel
theorem test_B4_ldmda : moves (arm [(0, 0x2008)] table) 0xE8100006 [(1, 0xCAFEBABE), (2, 0x88776655), (0, 0x2008)] [] = true := by
  decide +kernel
theorem test_B5_ldmdb : moves (arm [(0, 0x2008)] table) 0xE9300006 [(1, 0x44332211), (2, 0xCAFEBABE), (0, 0x2000)] [] = true := by
  decide +kernel
theorem test_B6_stmia_base : moves (arm [(0, 0x2000), (1, 0x77)]) 0xE8A00003 [(0, 0x2008)] [(0x2000, 0x2000), (0x2004, 0x77)]
    = true := by decide +kernel
theorem test_B7_block_stops : halts (arm []) 0xE8A10003 .unpredictable = true ∧ halts (arm []) 0xE8B00003 .unpredictable = true ∧
    halts (arm []) 0xE8900000 .unpredictable = true ∧ halts (arm []) 0xE8D00002 .unpredictable = true := by decide +kernel
theorem test_B10_ldm_unaligned : moves (arm [(0, 0x2002)] table) 0xE8900002 [(1, 0x44332211), (0, 0x2002)] [] = true := by
  decide +kernel
theorem test_B11_stm_user : ran
    (({ core 0x00000092#32 0x8000#32 [(13, 0x3333), (14, 0x4444), (0, 0x2000)] [] with } : State).hostWriteBank .usr 13 0x1111
      |>.hostWriteBank .usr 14 0x2222) 0xE8C06000
    (fun t => word t 0x2000 == 0x1111 && word t 0x2004 == 0x2222) = true := by decide +kernel
theorem test_B12_ldm_user : ran (core 0x000000D1#32 0x8000#32 [(13, 7), (0, 0x2000)] table) 0xE8D02000
    (fun t => t.hostReadBank .usr 13 == 0x44332211 && t.hostReadBank .fiq 13 == 7) = true := by decide +kernel
theorem test_B13_ldm_return : ran { core 0x000000D3#32 0x8000#32 [(13, 0x3000)] [(0x3000, 0xAA), (0x3004, 0x9000)] with
      spsr := ⟨0, 0x80000010, 0, 0, 0⟩, spsrDef := ⟨false, true, false, false, false⟩ } 0xE8FD8001
    (fun t => r t 0 == 0xAA && t.hostReadBank .svc 13 == 0x3008 && t.cpsr == 0x80000010 && t.pc == 0x9000) = true := by
  decide +kernel
theorem test_B15_ldm_abort : ran (hole 0x4000 0x4000 (arm [(0, 0x3FF8), (3, 0x33)] [(0x3FF8, 1), (0x3FFC, 2)])) 0xE8B0000E
    (fun t => r t 1 == 1 && r t 2 == 2 && r t 3 == 0x33 && r t 0 == 0x4004 && t.cpsr == 0x00000097 && r t 14 == 0x8008 &&
      t.pc == 0x10) = true := by decide +kernel
theorem test_W1_swp : moves (arm [(1, 1), (2, 0x4000)]) 0xE1020091 [(0, 0)] [(0x4000, 1)] = true ∧
    moves (arm [(0, 5), (2, 0x4000)] [(0x4000, 9)]) 0xE1020090 [(0, 9)] [(0x4000, 5)] = true := by decide +kernel
theorem test_W3_swp_rotated : moves (arm [(1, 0xAABBCCDD), (2, 0x2001)] table) 0xE1020091 [(0, 0x11443322)] [(0x2000, 0xAABBCCDD)]
    = true := by decide +kernel
theorem test_W4_swpb : moves (arm [(1, 0x1FF), (2, 0x4001)] [(0x4000, 0x11227E44)]) 0xE1420091 [(0, 0x7E)] [(0x4000, 0x1122FF44)]
    = true := by decide +kernel
theorem test_W5_swp_same : halts (arm []) 0xE1010091 .unpredictable = true := by decide +kernel

/-! Branches (2.5). -/
theorem test_J1_b : goes (arm []) 0xEA000002 0x0000001F#32 0x8010#32 = true ∧ goes (arm []) 0xEAFFFFFE 0x0000001F#32 0x8000#32 = true := by
  decide +kernel
theorem test_J3_b_wraps : goes (core 0x0000001F#32 0#32 [] []) 0xEAFFFFFD 0x0000001F#32 0xFFFFFFFC#32 = true ∧
    goes (core 0x0000001F#32 0xFFFFFFFC#32 [] []) 0xE1A00000 0x0000001F#32 0#32 = true := by decide +kernel
theorem test_J5_bl : ran (arm []) 0xEB0003FE (fun t => r t 14 == 0x8004 && t.pc == 0x9000) = true := by decide +kernel
theorem test_J6_blne : gives (flags 0b0100 (arm [(14, 5)])) 0x1BFFFFFC [(14, 5)] 0b0100 = true := by decide +kernel
theorem test_J7_bx : goes (core 0x00000010#32 0x8000#32 [(0, 0x1001)] []) 0xE12FFF10 0x00000030#32 0x1000#32 = true ∧
    goes (arm [(0, 0x1000)]) 0xE12FFF10 0x0000001F#32 0x1000#32 = true := by decide +kernel
theorem test_J9_bx_stops : halts (arm [(0, 0x1002)]) 0xE12FFF10 .unpredictable = true ∧
    goes (arm []) 0xF12FFF10 0x0000001F#32 0x8004#32 = true := by decide +kernel

/-! Status registers, SWI, undefined space, coprocessor (2.6). -/
theorem test_P1_mrs : moves (core 0xF00000D3#32 0x8000#32 [] []) 0xE10F0000 [(0, 0xF00000D3)] [] = true := by decide +kernel
theorem test_P2_mrs_stops : halts (core 0x00000010#32 0x8000#32 [] []) 0xE14F0000 .noSPSR = true ∧
    halts (core 0x00000013#32 0x8000#32 [] []) 0xE14F0000 .undefinedSPSR = true := by decide +kernel
theorem test_P5_msr_register : goes (core 0x000000D3#32 0x8000#32 [(0, 0xFFFFFF1F)] []) 0xE12FF000 0xF800001F#32 0x8004#32 = true ∧
    goes (core 0x00000010#32 0x8000#32 [(0, 0x000000D3)] []) 0xE121F000 0x000000D3#32 0x8004#32 = true := by decide +kernel
theorem test_P4_msr_immediate : goes (core 0x000000D3#32 0x8000#32 [] []) 0xE328F20F 0xF00000D3#32 0x8004#32 = true := by
  decide +kernel
theorem test_P6_msr_stops : halts (core 0x000000D3#32 0x8000#32 [] []) 0xE121F000 .illegalMode = true ∧
    halts (core 0x00000010#32 0x8000#32 [(0, 0x30)] []) 0xE121F000 .unpredictable = true := by decide +kernel
theorem test_P9_msr_spsr : ran (core 0x000000D3#32 0x8000#32 [(0, 0x10)] []) 0xE169F000
      (fun t => t.spsr.svc == 0x10 && t.spsrDef.svc) = true ∧
    ran (core 0x000000D3#32 0x8000#32 [(0, 0xF0000000)] []) 0xE168F000 (fun t => t.spsr.svc == 0xF0000000 && !t.spsrDef.svc)
      = true := by decide +kernel
theorem test_P11_swi : enters (core 0x00000010#32 0x8000#32 [] []) 0xEF123456 .svc 0x00000093#32 0x10#32 0x8004#32 0x08#32 = true := by
  decide +kernel
theorem test_P13_undefined : enters (arm []) 0xE7F000F0 .und 0x0000009B#32 0x1F#32 0x8004#32 0x04#32 = true ∧
    goes (arm []) 0x07F000F0 0x0000001F#32 0x8004#32 = true := by decide +kernel
theorem test_P15_mrc_absent : enters (core 0x00000010#32 0x8000#32 [] []) 0xEE100F10 .und 0x0000009B#32 0x10#32 0x8004#32 0x04#32
    = true := by decide +kernel
theorem test_P16_mrc : gives { arm [] with copAnswers := [.accepted 0x41007700 []] } 0xEE100F10 [(0, 0x41007700)] 0b0000 = true ∧
    gives { arm [] with copAnswers := [.accepted 0x60000000 []] } 0xEE10FE10 [] 0b0110 = true := by decide +kernel
theorem test_P18_mcr : ran { arm [(0, 0x1234)] with copAnswers := [.accepted 0 []] } 0xEE010F10
    (fun t => decide (t.copRequests = [.moveTo 15 0 1 0 0 0x1234])) = true := by decide +kernel
theorem test_P19_cdp : ran { arm [] with copAnswers := [.accepted 0 []] } 0xEE2431C5
    (fun t => decide (t.copRequests = [.execute 1 2 4 3 5 6])) = true := by decide +kernel
theorem test_P20_ldc : ran { arm [(3, 0x1000)] [(0x1010, 0x11), (0x1014, 0x22)] with copAnswers := [.accepted 0 [0]] } 0xED932104
    (fun t => decide (t.copRequests = [.loadData [0x11, 0x22], .load 1 2 false]) && r t 3 == 0x1000) = true := by decide +kernel
theorem test_P21_stc : ran { arm [(3, 0x1008)] with copAnswers := [.accepted 0xAABBCCDD []] } 0xED232102
    (fun t => word t 0x1000 == 0xAABBCCDD && r t 3 == 0x1000) = true := by decide +kernel
theorem test_P22_ldc_stops : halts (arm []) 0xEC932100 .unpredictable = true := by decide +kernel

/-! THUMB (2.7). -/
theorem test_T1_lsl : gives (thumb [(1, 0x40000001)]) 0x0088 [(0, 4)] 0b0010 = true ∧
    gives (flags 0b0010 (thumb [(1, 0x80000000)])) 0x0008 [(0, 0x80000000)] 0b1010 = true := by decide +kernel
theorem test_T3_lsr : gives (thumb [(3, 0x80000000)]) 0x081A [(2, 0)] 0b0110 = true := by decide +kernel
theorem test_T4_asr : gives (thumb [(0, 0x80000000)]) 0x17C0 [(0, 0xFFFFFFFF)] 0b1000 = true := by decide +kernel
theorem test_T5_add : gives (thumb [(1, 0x7FFFFFFF), (2, 1)]) 0x1888 [(0, 0x80000000)] 0b1001 = true := by decide +kernel
theorem test_tsub_register : gives (thumb [(1, 5), (2, 6)]) 0x1A88 [(0, 0xFFFFFFFF)] 0b1000 = true := by decide +kernel
theorem test_T6_sub3 : gives (thumb []) 0x1E40 [(0, 0xFFFFFFFF)] 0b1000 = true := by decide +kernel
theorem test_T7_add3 : gives (flags 0b1111 (thumb [(1, 0x80000000)])) 0x1C08 [(0, 0x80000000)] 0b1000 = true := by decide +kernel
theorem test_T8_mov : gives (flags 0b1111 (thumb [])) 0x20FF [(0, 0xFF)] 0b0011 = true := by decide +kernel
theorem test_T9_cmp : gives (thumb [(1, 10)]) 0x290A [(1, 10)] 0b0110 = true := by decide +kernel
theorem test_T10_add8 : gives (thumb [(2, 0xFFFFFFFF)]) 0x3201 [(2, 0)] 0b0110 = true := by decide +kernel
theorem test_T11_sub8 : gives (thumb [(3, 100)]) 0x3BC8 [(3, 0xFFFFFF9C)] 0b1000 = true := by decide +kernel
theorem test_T12_neg : gives (thumb [(1, 5)]) 0x4248 [(0, 0xFFFFFFFB)] 0b1000 = true ∧ gives (thumb []) 0x4248 [(0, 0)] 0b0110 = true := by
  decide +kernel
theorem test_T14_lsl_register : gives (thumb [(0, 1), (1, 32)]) 0x4088 [(0, 0)] 0b0110 = true := by decide +kernel
theorem test_T15_lsr_register : gives (flags 0b0010 (thumb [(0, 0x80000000), (1, 0x100)])) 0x40C8 [(0, 0x80000000)] 0b1010 = true := by
  decide +kernel
theorem test_tasr_register : gives (thumb [(0, 0x80000008), (1, 4)]) 0x4108 [(0, 0xF8000000)] 0b1010 = true := by decide +kernel
theorem test_T16_ror : gives (thumb [(0, 0x80000001), (1, 1)]) 0x41C8 [(0, 0xC0000000)] 0b1010 = true := by decide +kernel
theorem test_T17_adc : gives (flags 0b0010 (thumb [(0, 0xFFFFFFFF)])) 0x4148 [(0, 0)] 0b0110 = true := by decide +kernel
theorem test_T18_sbc : gives (thumb []) 0x4188 [(0, 0xFFFFFFFF)] 0b1000 = true := by decide +kernel
theorem test_T19_mul : ran (thumb [(0, 6), (1, 7)]) 0x4348 (fun t => r t 0 == 42) = true := by decide +kernel
theorem test_T20_mul_same : halts (thumb []) 0x4340 .unpredictable = true := by decide +kernel
/-- AND, EOR, ORR keep C and V; CMP and CMN write no register (R255, hand calculation). -/
theorem test_tlogic : gives (flags 0b0011 (thumb [(0, 0xF0), (1, 0x3C)])) 0x4008 [(0, 0x30)] 0b0011 = true ∧
    gives (flags 0b0011 (thumb [(0, 0xF0), (1, 0x3C)])) 0x4048 [(0, 0xCC)] 0b0011 = true ∧
    gives (flags 0b0011 (thumb [(0, 0xF0), (1, 0x3C)])) 0x4308 [(0, 0xFC)] 0b0011 = true ∧
    gives (thumb [(0, 1), (1, 2)]) 0x4288 [(0, 1)] 0b1000 = true ∧
    gives (thumb [(0, 0xFFFFFFFF), (1, 1)]) 0x42C8 [(0, 0xFFFFFFFF)] 0b0110 = true := by decide +kernel
theorem test_T21_bic : gives (thumb [(0, 0xFF), (1, 0x0F)]) 0x4388 [(0, 0xF0)] 0b0000 = true := by decide +kernel
theorem test_T22_mvn : gives (thumb []) 0x43C8 [(0, 0xFFFFFFFF)] 0b1000 = true := by decide +kernel
theorem test_T23_tst : gives (thumb [(0, 0xF0), (1, 0x0F)]) 0x4208 [(0, 0xF0)] 0b0100 = true := by decide +kernel
theorem test_T24_add_high : gives (flags 0b1111 (thumb [(0, 1), (8, 0x10)])) 0x4440 [(0, 0x11)] 0b1111 = true := by decide +kernel
theorem test_T25_cmp_high : gives (thumb [(0, 5), (8, 5)]) 0x4580 [] 0b0110 = true := by decide +kernel
theorem test_T26_mov_pc : goes (thumb [(14, 0x105)]) 0x46F7 0x0000003F#32 0x104#32 = true := by decide +kernel
theorem test_T27_bx : goes (thumb [(14, 0x8000)]) 0x4770 0x0000001F#32 0x8000#32 = true ∧
    goes (thumb []) 0x4778 0x0000001F#32 0x104#32 = true := by decide +kernel
theorem test_T29_thumb_stops : halts (core 0x0000003F#32 0x102#32 [] []) 0x4778 .unpredictable = true ∧
    halts (thumb []) 0x4408 .unpredictable = true ∧ halts (thumb []) 0x4780 .noMatchingOpcode = true := by decide +kernel
theorem test_T32_ldr_literal : moves (core 0x0000003F#32 0x102#32 [] [(0x10C, 0x12345678)]) 0x4802 [(0, 0x12345678)] [] = true ∧
    moves (thumb [] [(0x10C, 0x12345678)]) 0x4802 [(0, 0x12345678)] [] = true := by decide +kernel
/-- Format 7 and 8 (R258, R259): [R1 + R2] with R1 = 0x2000 (T34, T35, hand calculation on the table of 2.3). -/
theorem test_T34_register_offset :
    moves (thumb [(1, 0x2000), (2, 4)] table) 0x5888 [(0, 0xCAFEBABE)] [] = true ∧
    moves (thumb [(1, 0x2000), (2, 7)] table) 0x5C88 [(0, 0xCA)] [] = true ∧
    moves (thumb [(1, 0x2000), (2, 7)] table) 0x5688 [(0, 0xFFFFFFCA)] [] = true ∧
    moves (thumb [(1, 0x2000), (2, 6)] table) 0x5A88 [(0, 0x0000CAFE)] [] = true ∧
    moves (thumb [(1, 0x2000), (2, 6)] table) 0x5E88 [(0, 0xFFFFCAFE)] [] = true ∧
    moves (thumb [(0, 0xDEAD), (1, 0x2000), (2, 4)] table) 0x5088 [] [(0x2004, 0x0000DEAD)] = true ∧
    moves (thumb [(0, 0xAB), (1, 0x2000), (2, 1)]) 0x5488 [] [(0x2000, 0x0000AB00)] = true ∧
    moves (thumb [(0, 0x12345678), (1, 0x2000), (2, 2)] table) 0x5288 [] [(0x2000, 0x56782211)] = true := by decide +kernel
/-- Format 9 and 10 (R260, R261; T37, T38, hand calculation). -/
theorem test_T37_immediate_offset :
    moves (thumb [(0, 0xDEAD), (1, 0x2000)]) 0x6048 [] [(0x2004, 0x0000DEAD)] = true ∧
    moves (thumb [(1, 0x2000)] table) 0x6848 [(0, 0xCAFEBABE)] [] = true ∧
    moves (thumb [(0, 0xAB), (1, 0x2000)]) 0x7048 [] [(0x2000, 0x0000AB00)] = true ∧
    moves (thumb [(1, 0x2000)] [(0x201C, 0xAA000000)]) 0x7FC8 [(0, 0xAA)] [] = true ∧
    moves (thumb [(0, 0x12345678), (1, 0x2000)] table) 0x8048 [] [(0x2000, 0x56782211)] = true ∧
    moves (thumb [(1, 0x2000)] table) 0x8848 [(0, 0x00004433)] [] = true := by decide +kernel
theorem test_T39_sp_relative : moves (thumb [(0, 0xBEEF), (13, 0x3000)]) 0x9001 [] [(0x3004, 0x0000BEEF)] = true ∧
    moves (thumb [(13, 0x2000)] table) 0x9801 [(0, 0xCAFEBABE)] [] = true := by decide +kernel
theorem test_T40_addresses : moves (core 0x0000003F#32 0x102#32 [] []) 0xA001 [(0, 0x108)] [] = true ∧
    moves (thumb [(13, 0x3000)]) 0xA902 [(1, 0x3008)] [] = true ∧ moves (thumb [(13, 0x3000)]) 0xB084 [(13, 0x2FF0)] [] = true ∧
    moves (thumb [(13, 0x3000)]) 0xB004 [(13, 0x3010)] [] = true := by decide +kernel
theorem test_T43_push : moves (thumb [(0, 1), (1, 2), (2, 3), (3, 4), (13, 0x3014), (14, 0x8001)]) 0xB50F [(13, 0x3000)]
    [(0x3000, 1), (0x3004, 2), (0x3008, 3), (0x300C, 4), (0x3010, 0x8001)] = true := by decide +kernel
theorem test_T44_pop : ran (thumb [(13, 0x3000)] [(0x3000, 1), (0x3004, 2), (0x3008, 3), (0x300C, 4), (0x3010, 0x201)]) 0xBD0F
    (fun t => r t 0 == 1 && r t 1 == 2 && r t 2 == 3 && r t 3 == 4 && r t 13 == 0x3014 && t.pc == 0x200 && t.cpsr == 0x3F)
    = true := by decide +kernel
theorem test_T45_stmia : moves (thumb [(0, 0x2000), (1, 0x11), (2, 0x22)]) 0xC006 [(0, 0x2008)] [(0x2000, 0x11), (0x2004, 0x22)]
    = true := by decide +kernel
theorem test_T46_ldmia : moves (thumb [(0, 0x2000)] [(0x2000, 5), (0x2004, 6)]) 0xC803 [(0, 5), (1, 6)] [] = true := by
  decide +kernel
/-- The fourteen branches of format 16, offset 2: 0x108 when the condition of R92 passes, else 0x102 (T47, T48, hand
calculation). -/
theorem test_T47_conditional_branches :
    ([(0xD0, 0b0100), (0xD1, 0b0000), (0xD2, 0b0010), (0xD3, 0b0000), (0xD4, 0b1000), (0xD5, 0b0000), (0xD6, 0b0001),
      (0xD7, 0b0000), (0xD8, 0b0010), (0xD9, 0b0110), (0xDA, 0b1001), (0xDB, 0b1000), (0xDC, 0b1001), (0xDD, 0b0100)] :
      List (Nat × BitVec 4)).all (fun p => ran (flags p.2 (thumb [])) (p.1 * 256 + 2) (fun t => t.pc == 0x108)) = true ∧
    ([(0xD0, 0b0000), (0xD1, 0b0100), (0xD2, 0b0000), (0xD3, 0b0010), (0xD4, 0b0000), (0xD5, 0b1000), (0xD6, 0b0000),
      (0xD7, 0b0001), (0xD8, 0b0110), (0xD9, 0b0010), (0xDA, 0b0001), (0xDB, 0b1001), (0xDC, 0b0100), (0xDD, 0b1001)] :
      List (Nat × BitVec 4)).all (fun p => ran (flags p.2 (thumb [])) (p.1 * 256 + 2) (fun t => t.pc == 0x102)) = true := by
  decide +kernel
theorem test_T51_swi : enters (core 0x00000030#32 0x100#32 [] []) 0xDF12 .svc 0x00000093#32 0x30#32 0x102#32 0x08#32 = true := by
  decide +kernel
theorem test_T52_undefined : enters (core 0x00000030#32 0x100#32 [] []) 0xDE00 .und 0x0000009B#32 0x30#32 0x102#32 0x04#32
    = true := by decide +kernel
theorem test_T53_b : goes (thumb []) 0xE010 0x0000003F#32 0x124#32 = true := by decide +kernel
theorem test_T55_bl_first : moves (thumb []) 0xF000 [(14, 0x104)] [] = true ∧
    moves (core 0x0000003F#32 0x2000#32 [] []) 0xF7FE [(14, 0x4)] [] = true := by decide +kernel
theorem test_T56_bl_second : ran (core 0x0000003F#32 0x102#32 [(14, 0x104)] []) 0xF87E (fun t => t.pc == 0x200 && r t 14 == 0x105)
    = true := by decide +kernel
theorem test_T58_ldr_abort : enters (hole 0x4000 0xFFFFC000 (core 0x00000030#32 0x100#32 [(1, 0x4000)] [])) 0x6808 .abt
    0x00000097#32 0x30#32 0x108#32 0x10#32 = true := by decide +kernel

/-! Exceptions, interrupts, reset, violations (2.8). -/

/-- MOV R0, R0 at 0x8000, with CPSR. -/
def idle (cpsr : Word) : State := core cpsr 0x8000#32 [] [(0x8000, 0xE1A00000)]

/-- One step from `s` answers a next state of which `p` holds. -/
def steps (s : State) (p : State → Bool) : Bool :=
  match step s with
  | .next t => p t
  | .fault _ => false
  | .refused _ => false

theorem test_X1_fiq : steps { idle 0x10#32 with irqPending := true, fiqPending := true } (fun t =>
    t.cpsr == 0xD1 && t.spsr.fiq == 0x10 && r t 14 == 0x8004 && t.pc == 0x1C && !t.fiqPending && t.irqPending) = true := by
  decide +kernel
theorem test_X2_reset : steps { idle 0x10#32 with irqPending := true, fiqPending := true, resetPending := true } (fun t =>
    t.cpsr == 0xD3 && t.spsr.svc == 0x10 && r t 14 == 0x8000 && t.pc == 0 && !t.resetPending && t.irqPending && t.fiqPending)
    = true := by decide +kernel
theorem test_X3_irq_masked : steps { idle 0x90#32 with irqPending := true } (fun t =>
    t.pc == 0x8004 && t.irqPending && t.cpsr == 0x90) = true := by decide +kernel
theorem test_X4_irq : steps { idle 0x50#32 with irqPending := true, fiqPending := true } (fun t =>
    t.cpsr == 0xD2 && t.spsr.irq == 0x50 && r t 14 == 0x8004 && t.pc == 0x18 && t.fiqPending && !t.irqPending) = true := by
  decide +kernel
theorem test_X6_prefetch_abort : steps (hole 0x8000 4 (idle 0x10#32)) (fun t =>
    t.cpsr == 0x97 && t.spsr.abt == 0x10 && r t 14 == 0x8004 && t.pc == 0x0C) = true := by decide +kernel
theorem test_X7_prefetch_abort_thumb :
    steps (hole 0x4000 4 (core 0x30#32 0x4000#32 [] [])) (fun t => t.cpsr == 0x97 && r t 14 == 0x4002) = true ∧
    steps { hole 0x4000 4 (core 0x30#32 0x4000#32 [] []) with params := { Config.params with pabtThumbLr := .plus4 } }
      (fun t => t.cpsr == 0x97 && r t 14 == 0x4004) = true := by decide +kernel
theorem test_X8_irq_before_fetch : steps { hole 0x8000 4 (idle 0x10#32) with irqPending := true } (fun t =>
    r t 14 == 0x8004 && t.pc == 0x18) = true := by decide +kernel
theorem test_X9_power_on : steps State.reset.hostPowerOn (fun t =>
    t.cpsr == 0xD3 && t.spsr.svc == 0 && t.spsrDef.svc && r t 14 == 0 && t.pc == 0 && t.cycles == 1) = true := by decide +kernel
/-- X10 to X12: the legality checks, what a violation leaves, and that a halted core stays as it is. -/
theorem test_X10_violations :
    (core 0x00000000#32 0#32 [] []).afterStep = { core 0x00000000#32 0#32 [] [] with halted := some .illegalMode } ∧
    (core 0x00000010#32 0x8002#32 [] []).afterStep = { core 0x00000010#32 0x8002#32 [] [] with halted := some .misalignedPC } ∧
    ({ idle 0x10#32 with halted := some .misalignedPC, resetPending := true } : State).afterStep =
      { idle 0x10#32 with halted := some .misalignedPC, resetPending := true } := by decide +kernel
theorem test_X14_nested : ran { core 0x00000013#32 0x8000#32 [(14, 0x1234)] [] with
    spsr := ⟨0, 0x1F, 0, 0, 0⟩, spsrDef := ⟨false, true, false, false, false⟩ } 0xEF000000 (fun t =>
    t.cpsr == 0x93 && t.spsr.svc == 0x13 && r t 14 == 0x8004) = true := by decide +kernel
theorem test_cycles : steps { idle 0x10#32 with cycles := 7 } (fun t => t.cycles == 8) = true := by decide +kernel
/-- MISALIGN = refuse (R65): the load of L2 stops. -/
theorem test_misalign_refuse : halts { arm [(1, 0x2001)] table with params := { Config.params with misalign := .refuse } } 0xE5910000
    .unpredictable = true := by decide +kernel

/-- R60: a device records a word and a byte written, and its storage stays; a window can refuse reads and take writes. -/
theorem test_device_writes :
    ran { arm [(0, 0x11223344), (1, 0x6000)] with regions := [⟨0x6000, 4, .device⟩] } 0xE5810000 (fun t =>
      t.deviceWrites == [⟨0x6000#32, [0x44#8, 0x33#8, 0x22#8, 0x11#8]⟩] && word t 0x6000 == 0) = true ∧
    ran { arm [(0, 0x11223344), (1, 0x6001)] with regions := [⟨0x6000, 4, ⟨false, false, true, true⟩⟩] } 0xE5C10000 (fun t =>
      t.deviceWrites == [⟨0x6001#32, [0x44#8]⟩]) = true := by decide +kernel

/-- R140, R365: a run ends at its end address, not before. -/
theorem test_run_end : (State.runTo 0x8004#32 1 (idle 0x1F#32)).map (fun t => t.pc) = some 0x8004#32 ∧
    State.runTo 0x8004#32 0 (idle 0x1F#32) = none := by decide +kernel

/-! ### Witnesses: a state and operands that meet all hypotheses of a statement together, for each of its clauses -/

/-- `Runs`, as a test that evaluates. -/
def runsCheck (i : Instr) (s : State) (m : Mode) : Bool :=
  s.mem.wf && decide (s.mode? = some m) && s.pcAligned && decide (s.params.vectorBase.extractLsb' 0 2 = 0b00#2) &&
    psrT s.cpsr == i.isThumb && condPassed i.condition s.cpsr

theorem runs_of_check {i : Instr} {s : State} {m : Mode} (h : runsCheck i s m = true) : Runs i s m := by
  simp only [runsCheck, Bool.and_eq_true, decide_eq_true_eq, beq_iff_eq] at h
  obtain ⟨⟨⟨⟨⟨h1, h2⟩, h3⟩, h4⟩, h5⟩, h6⟩ := h
  exact ⟨⟨h1, by rw [h2]; rfl, h3, h4⟩, h2, h5, h6⟩

theorem inv_of_check {i : Instr} {s : State} {m : Mode} (h : runsCheck i s m = true) : s.Inv := (runs_of_check h).inv

/-- A state in mode bits `m` with the SPSRs given and defined as said. -/
def withSpsr (s : State) (e : ExcMode) (v : Word) : State := s.hostWriteSpsr e v

/-- The windows of the transfer witnesses: absent, read-only, device, and a device that answers Fault to every read. -/
def mapped (s : State) : State :=
  { s with regions := [⟨0x4000, 0x1000, .absent⟩, ⟨0x5000, 0x1000, .readOnly⟩, ⟨0x6000, 0x1000, .device⟩,
    ⟨0x7000, 0x1000, ⟨false, false, true, true⟩⟩] }

theorem witness_DecodeOfEncode : Instr.wellFormed false (.addR .al true 1 0 0b00000#5 .lsl 2) = true ∧
    Instr.wellFormed true (.umull .al false 1 0 3 2) = true ∧ Instr.wellFormed false (.tMovHi 15 15) = true := by decide

theorem witness_EncodeOfDecode : decode false (.arm 0xE0910002#32) = .ok (.addR .al true 1 0 0b00000#5 .lsl 2) ∧
    decode true (.thumb 0x5288#16) = .ok (.tStrhR 2 1 0) := ⟨rfl, rfl⟩

theorem witness_ExtrasGate : Instr.needsExtras (.umull .al false 1 0 3 2) = true ∧ Instr.needsExtras (.tLdrhI 0b00001#5 1 0) = true := by
  decide

theorem witness_PcOperand : psrT (arm []).cpsr = false ∧ psrT (thumb []).cpsr = true ∧ phys .fiq 8 = some (.midFiq 0) ∧
    phys .usr 14 = some (.lr .usr) := by decide +kernel

theorem witness_ConditionFails : (arm []).mode? = some .sys ∧ psrT (arm []).cpsr = false ∧
    Instr.isThumb (.swi .eq 0x000000#24) = false ∧ condPassed (Instr.condition (.swi .eq 0x000000#24)) (arm []).cpsr = false ∧
    condPassed (Instr.condition (.swi .nv 0x000000#24)) (arm []).cpsr = false := by decide +kernel

/-- The clauses of RotatedImmediate at rot = 0, 1 and 15. -/
theorem witness_RotatedImmediate : shifterImm 0b0000#4 0xFF#8 true = ⟨0x000000FF#32, true⟩ ∧
    shifterImm 0b0001#4 0x02#8 false = ⟨0x80000000#32, true⟩ ∧ shifterImm 0b1111#4 0xFF#8 false = ⟨0x000003FC#32, false⟩ := by
  decide +kernel

/-- The clauses of ShiftByImmediate at n = 0, 1 and 31. -/
theorem witness_ShiftByImmediate :
    shiftByImm .lsl 0 0x80000001#32 true = ⟨0x80000001#32, true⟩ ∧ shiftByImm .lsr 0 0x80000001#32 false = ⟨0#32, true⟩ ∧
    shiftByImm .asr 0 0x80000001#32 false = ⟨0xFFFFFFFF#32, true⟩ ∧ shiftByImm .ror 0 0x80000001#32 false = ⟨0x40000000#32, true⟩ ∧
    shiftByImm .lsl 1 0x80000001#32 false = ⟨0x00000002#32, true⟩ ∧ shiftByImm .ror 1 0x80000001#32 false = ⟨0xC0000000#32, true⟩ ∧
    shiftByImm .lsr 31 0x80000001#32 true = ⟨0x00000001#32, false⟩ ∧ shiftByImm .asr 31 0x80000001#32 true = ⟨0xFFFFFFFF#32, false⟩ := by
  decide +kernel

/-- The clauses of ShiftByRegister at n = 0, 31, 32, 33, 64 and 255. -/
theorem witness_ShiftByRegister :
    shiftByReg .lsr 0 0x80000001#32 true = ⟨0x80000001#32, true⟩ ∧ shiftByReg .lsl 31 0x80000001#32 true = ⟨0x80000000#32, false⟩ ∧
    shiftByReg .lsl 32 0x80000001#32 false = ⟨0#32, true⟩ ∧ shiftByReg .lsr 32 0x80000001#32 false = ⟨0#32, true⟩ ∧
    shiftByReg .lsl 33 0x80000001#32 true = ⟨0#32, false⟩ ∧ shiftByReg .asr 32 0x80000001#32 false = ⟨0xFFFFFFFF#32, true⟩ ∧
    shiftByReg .ror 64 0x80000001#32 false = ⟨0x80000001#32, true⟩ ∧ shiftByReg .ror 33 0x80000001#32 false = ⟨0xC0000000#32, true⟩ ∧
    shiftByReg .lsr 255 0x80000001#32 true = ⟨0#32, false⟩ := by decide +kernel

/-- Each of the three operand forms, with flags and without, and one without a destination. -/
theorem witness_DataProcessingArm :
    (∃ d, Runs (.addR .al true 1 0 0b00000#5 .lsl 2) (arm []) .sys ∧ dataOp? (arm []) .sys (.addR .al true 1 0 0b00000#5 .lsl 2) = some d ∧
      unpredictableOperands .sys (.addR .al true 1 0 0b00000#5 .lsl 2) = false ∧ d.dest ≠ some 15 ∧ d.setFlags = true) ∧
    (∃ d, Runs (.mvnI .al false 14 0xF#4 0xFF#8) (arm []) .sys ∧ dataOp? (arm []) .sys (.mvnI .al false 14 0xF#4 0xFF#8) = some d ∧
      unpredictableOperands .sys (.mvnI .al false 14 0xF#4 0xFF#8) = false ∧ d.dest ≠ some 15 ∧ d.setFlags = false) ∧
    (∃ d, Runs (.cmpS .al 15 14 .ror 15) (arm []) .sys ∧ dataOp? (arm []) .sys (.cmpS .al 15 14 .ror 15) = some d ∧
      unpredictableOperands .sys (.cmpS .al 15 14 .ror 15) = false ∧ d.dest = none) :=
  ⟨⟨_, runs_of_check (by decide +kernel), rfl, rfl, by decide, rfl⟩, ⟨_, runs_of_check (by decide +kernel), rfl, rfl, by decide, rfl⟩,
    ⟨_, runs_of_check (by decide +kernel), rfl, rfl, rfl⟩⟩

theorem witness_DataProcessingThumb :
    (∃ d, Runs (.tLsrI 0b00000#5 1 0) (thumb []) .sys ∧ dataOp? (thumb []) .sys (.tLsrI 0b00000#5 1 0) = some d ∧
      unpredictableOperands .sys (.tLsrI 0b00000#5 1 0) = false ∧ d.dest ≠ some 15 ∧ d.setFlags = true) ∧
    (∃ d, Runs (.tSpSub 0x7F#7) (thumb []) .sys ∧ dataOp? (thumb []) .sys (.tSpSub 0x7F#7) = some d ∧
      unpredictableOperands .sys (.tSpSub 0x7F#7) = false ∧ d.dest ≠ some 15 ∧ d.setFlags = false) :=
  ⟨⟨_, runs_of_check (by decide +kernel), rfl, rfl, by decide, rfl⟩, ⟨_, runs_of_check (by decide +kernel), rfl, rfl, by decide, rfl⟩⟩

/-- Without flags in both states; with S in a mode without SPSR, with an undefined one, an illegal one, and a legal one. -/
theorem witness_DestinationPc :
    (∃ d, Runs (.movR .al false 15 0b00000#5 .lsl 0) (arm []) .sys ∧ dataOp? (arm []) .sys (.movR .al false 15 0b00000#5 .lsl 0) = some d ∧
      unpredictableOperands .sys (.movR .al false 15 0b00000#5 .lsl 0) = false ∧
      d.dest = some 15 ∧ d.setFlags = false) ∧
    (∃ d, Runs (.tMovHi 14 15) (thumb []) .sys ∧ dataOp? (thumb []) .sys (.tMovHi 14 15) = some d ∧
      unpredictableOperands .sys (.tMovHi 14 15) = false ∧ d.dest = some 15 ∧ d.setFlags = false) ∧
    (∃ d, Runs (.movR .al true 15 0b00000#5 .lsl 14) (arm []) .sys ∧
      dataOp? (arm []) .sys (.movR .al true 15 0b00000#5 .lsl 14) = some d ∧
      unpredictableOperands .sys (.movR .al true 15 0b00000#5 .lsl 14) = false ∧ d.dest = some 15 ∧ d.setFlags = true) ∧
    (∃ d, Runs (.movR .al true 15 0b00000#5 .lsl 14) (core 0x000000D3#32 0#32 [] []) .svc ∧
      dataOp? (core 0x000000D3#32 0#32 [] []) .svc (.movR .al true 15 0b00000#5 .lsl 14) = some d ∧
      unpredictableOperands .svc (.movR .al true 15 0b00000#5 .lsl 14) = false ∧ d.dest = some 15 ∧ d.setFlags = true ∧ Mode.svc = ExcMode.svc.mode ∧ (core 0x000000D3#32 0#32 [] []).spsrDef.get .svc = false) ∧
    (withSpsr (core 0x000000D3#32 0#32 [] []) .svc 0#32).spsrDef.get .svc = true ∧
    (∀ m', ((withSpsr (core 0x000000D3#32 0#32 [] []) .svc 0#32).spsr.get .svc).extractLsb' 0 5 ≠ Mode.bits m') ∧
    Runs (.movR .al true 15 0b00000#5 .lsl 14) (withSpsr (core 0x000000D3#32 0#32 [] []) .svc 0#32) .svc ∧
    Runs (.movR .al true 15 0b00000#5 .lsl 14) (withSpsr (core 0x000000D3#32 0#32 [] []) .svc 0x60000030#32) .svc ∧
    ((withSpsr (core 0x000000D3#32 0#32 [] []) .svc 0x60000030#32).spsr.get .svc).extractLsb' 0 5 = Mode.bits .usr :=
  ⟨⟨_, runs_of_check (by decide +kernel), rfl, rfl, rfl, rfl⟩, ⟨_, runs_of_check (by decide +kernel), rfl, rfl, rfl, rfl⟩,
    ⟨_, runs_of_check (by decide +kernel), rfl, rfl, rfl, rfl⟩, ⟨_, runs_of_check (by decide +kernel), rfl, rfl, rfl, rfl, rfl, by decide +kernel⟩,
    by decide +kernel, by intro m'; cases m' <;> decide +kernel, runs_of_check (by decide +kernel),
    runs_of_check (by decide +kernel), by decide +kernel⟩

theorem witness_Multiply :
    (∃ o, Runs (.mla .al true 14 3 2 1) (arm []) .sys ∧ mulOp? (arm []) .sys (.mla .al true 14 3 2 1) = some o ∧
      unpredictableOperands .sys (.mla .al true 14 3 2 1) = false ∧ o.setFlags = true) ∧
    (∃ o, Runs (.mul .al false 0 2 1) (arm []) .sys ∧ mulOp? (arm []) .sys (.mul .al false 0 2 1) = some o ∧
      unpredictableOperands .sys (.mul .al false 0 2 1) = false ∧ o.setFlags = false) ∧
    (∃ o, Runs (.tMul 1 0) (thumb []) .sys ∧ mulOp? (thumb []) .sys (.tMul 1 0) = some o ∧ unpredictableOperands .sys (.tMul 1 0) = false) :=
  ⟨⟨_, runs_of_check (by decide +kernel), rfl, rfl, rfl⟩, ⟨_, runs_of_check (by decide +kernel), rfl, rfl, rfl⟩,
    ⟨_, runs_of_check (by decide +kernel), rfl, rfl⟩⟩

theorem witness_LongMultiply :
    (∃ o, Runs (.smlal .al true 1 0 3 2) (arm []) .sys ∧ longMulOp? (arm []) .sys (.smlal .al true 1 0 3 2) = some o ∧
      unpredictableOperands .sys (.smlal .al true 1 0 3 2) = false ∧ o.setFlags = true) ∧
    (∃ o, Runs (.umull .al false 14 13 3 2) (arm []) .sys ∧ longMulOp? (arm []) .sys (.umull .al false 14 13 3 2) = some o ∧
      unpredictableOperands .sys (.umull .al false 14 13 3 2) = false ∧ o.setFlags = false) :=
  ⟨⟨_, runs_of_check (by decide +kernel), rfl, rfl, rfl⟩, ⟨_, runs_of_check (by decide +kernel), rfl, rfl, rfl⟩⟩

theorem witness_UnpredictableOperands :
    (Runs (.mul .al false 0 2 0) (arm []) .sys ∧ unpredictableOperands .sys (.mul .al false 0 2 0) = true) ∧
    (Runs (.tPush false 0x00#8) (thumb []) .sys ∧ unpredictableOperands .sys (.tPush false 0x00#8) = true) :=
  ⟨⟨runs_of_check (by decide +kernel), rfl⟩, ⟨runs_of_check (by decide +kernel), rfl⟩⟩

/-- MISALIGN = refuse. -/
def strict (s : State) : State := { s with params := { Config.params with misalign := .refuse } }

theorem witness_MisalignedAccess :
    (∃ o, Runs (.ldrhI .al true true false 1 0 0x0#4 0x0#4) (arm [(1, 0x2001)]) .sys ∧
      loadOp? (arm [(1, 0x2001)]) .sys (.ldrhI .al true true false 1 0 0x0#4 0x0#4) = some o ∧ ¬ o.width.defined (arm [(1, 0x2001)]) o.ad.address) ∧
    (∃ o, Runs (.strI .al true true false 1 0 0x000#12) (strict (arm [(1, 0x2001)])) .sys ∧
      storeOp? (strict (arm [(1, 0x2001)])) .sys (.strI .al true true false 1 0 0x000#12) = some o ∧
      ¬ o.width.defined (strict (arm [(1, 0x2001)])) o.ad.address) ∧
    (Runs (.swp .al 2 0 1) (strict (arm [(2, 0x2003)])) .sys ∧
      ¬ Width.defined .word (strict (arm [(2, 0x2003)])) ((strict (arm [(2, 0x2003)])).x .sys 2)) := by
  refine ⟨⟨_, runs_of_check (by decide +kernel), rfl, ?_⟩, ⟨_, runs_of_check (by decide +kernel), rfl, ?_⟩,
    runs_of_check (by decide +kernel), ?_⟩
  · show ¬ ((arm [(1, 0x2001)]).x .sys 1 + 0#32).toNat % 2 = 0
    decide +kernel
  · show ¬ ((strict (arm [(1, 0x2001)])).params.misalign = .rotate ∨ ((strict (arm [(1, 0x2001)])).x .sys 1 + 0#32).toNat % 4 = 0)
    decide +kernel
  · show ¬ ((strict (arm [(2, 0x2003)])).params.misalign = .rotate ∨ ((strict (arm [(2, 0x2003)])).x .sys 2).toNat % 4 = 0)
    decide +kernel

/-- A load from storage at an unaligned address, one to R15, one from a device, one from an absent window. -/
theorem witness_LoadCompletes :
    (∃ o, Runs (.ldrI .al false true false 1 0 0x004#12) (arm [(1, 0x2003)]) .sys ∧
      loadOp? (arm [(1, 0x2003)]) .sys (.ldrI .al false true false 1 0 0x004#12) = some o ∧
      unpredictableOperands .sys (.ldrI .al false true false 1 0 0x004#12) = false ∧ o.width.defined (arm [(1, 0x2003)]) o.ad.address ∧
      (arm [(1, 0x2003)]).answers false (o.width.request o.ad.address) = true ∧ (arm [(1, 0x2003)]).isDevice (o.width.request o.ad.address) = false) ∧
    (∃ o, Runs (.ldrI .al true true false 1 15 0x000#12) (mapped (arm [(1, 0x6000)])) .sys ∧
      loadOp? (mapped (arm [(1, 0x6000)])) .sys (.ldrI .al true true false 1 15 0x000#12) = some o ∧ o.rd = 15 ∧
      unpredictableOperands .sys (.ldrI .al true true false 1 15 0x000#12) = false ∧
      o.width.defined (mapped (arm [(1, 0x6000)])) o.ad.address ∧
      (mapped (arm [(1, 0x6000)])).answers false (o.width.request o.ad.address) = true ∧ (mapped (arm [(1, 0x6000)])).isDevice (o.width.request o.ad.address) = true) :=
  ⟨⟨_, runs_of_check (by decide +kernel), rfl, rfl, .inl rfl, by decide +kernel⟩,
    ⟨_, runs_of_check (by decide +kernel), rfl, rfl, rfl, .inl rfl, by decide +kernel⟩⟩

theorem witness_StoreCompletes :
    (∃ o, Runs (.strbI .al false true false 1 0 0x004#12) (arm [(1, 0xFFFFFFFF)]) .sys ∧
      storeOp? (arm [(1, 0xFFFFFFFF)]) .sys (.strbI .al false true false 1 0 0x004#12) = some o ∧
      unpredictableOperands .sys (.strbI .al false true false 1 0 0x004#12) = false ∧ o.width.defined (arm [(1, 0xFFFFFFFF)]) o.ad.address ∧
      (arm [(1, 0xFFFFFFFF)]).accepts (o.width.request o.ad.address) = true ∧ (arm [(1, 0xFFFFFFFF)]).isDevice (o.width.request o.ad.address) = false) ∧
    (∃ o, Runs (.tStrI 0b00000#5 1 0) (mapped (thumb [(1, 0x6000)])) .sys ∧
      storeOp? (mapped (thumb [(1, 0x6000)])) .sys (.tStrI 0b00000#5 1 0) = some o ∧
      unpredictableOperands .sys (.tStrI 0b00000#5 1 0) = false ∧ o.width.defined (mapped (thumb [(1, 0x6000)])) o.ad.address ∧
      (mapped (thumb [(1, 0x6000)])).accepts (o.width.request o.ad.address) = true ∧ (mapped (thumb [(1, 0x6000)])).isDevice (o.width.request o.ad.address) = true) :=
  ⟨⟨_, runs_of_check (by decide +kernel), rfl, rfl, trivial, by decide +kernel⟩,
    ⟨_, runs_of_check (by decide +kernel), rfl, rfl, .inl rfl, by decide +kernel⟩⟩

theorem witness_SingleTransferAborts :
    (∃ o, Runs (.ldrI .al true true true 1 0 0x004#12) (mapped (arm [(1, 0x3FFC)])) .sys ∧
      loadOp? (mapped (arm [(1, 0x3FFC)])) .sys (.ldrI .al true true true 1 0 0x004#12) = some o ∧
      unpredictableOperands .sys (.ldrI .al true true true 1 0 0x004#12) = false ∧ o.width.defined (mapped (arm [(1, 0x3FFC)])) o.ad.address ∧
      (mapped (arm [(1, 0x3FFC)])).answers false (o.width.request o.ad.address) = false) ∧
    (∃ o, Runs (.tStrI 0b00000#5 1 0) (mapped (thumb [(1, 0x5FFC)])) .sys ∧
      storeOp? (mapped (thumb [(1, 0x5FFC)])) .sys (.tStrI 0b00000#5 1 0) = some o ∧
      unpredictableOperands .sys (.tStrI 0b00000#5 1 0) = false ∧ o.width.defined (mapped (thumb [(1, 0x5FFC)])) o.ad.address ∧
      (mapped (thumb [(1, 0x5FFC)])).accepts (o.width.request o.ad.address) = false) :=
  ⟨⟨_, runs_of_check (by decide +kernel), rfl, rfl, .inl rfl, by decide +kernel⟩,
    ⟨_, runs_of_check (by decide +kernel), rfl, rfl, .inl rfl, by decide +kernel⟩⟩

/-- R0 and R15 from R13, with write-back; the exception return form in Supervisor mode. -/
theorem witness_BlockLoadCompletes :
    (∃ o, Runs (.ldm .al false true false true 13 0x8001#16) (arm [(13, 0x3000)]) .sys ∧
      blockLoad? (arm [(13, 0x3000)]) .sys (.ldm .al false true false true 13 0x8001#16) = some o ∧
      unpredictableOperands .sys (.ldm .al false true false true 13 0x8001#16) = false ∧ o.returns = false ∧ o.regs = [0, 15] ∧
      (∀ k, k < 2 → (arm [(13, 0x3000)]).answers false (o.address k) = true)) ∧
    (∃ o, Runs (.ldm .al false true true true 13 0x8001#16) (withSpsr (core 0x000000D3#32 0#32 [(13, 0x3000)] []) .svc 0x80000010#32) .svc ∧
      blockLoad? (withSpsr (core 0x000000D3#32 0#32 [(13, 0x3000)] []) .svc 0x80000010#32) .svc (.ldm .al false true true true 13 0x8001#16) = some o ∧
      unpredictableOperands .svc (.ldm .al false true true true 13 0x8001#16) = false ∧ o.returns = true ∧
      ∃ e m', Mode.svc = ExcMode.mode e ∧
        (withSpsr (core 0x000000D3#32 0#32 [(13, 0x3000)] []) .svc 0x80000010#32).spsrDef.get e = true ∧
        ((withSpsr (core 0x000000D3#32 0#32 [(13, 0x3000)] []) .svc 0x80000010#32).spsr.get e).extractLsb' 0 5 = Mode.bits m') :=
  ⟨⟨_, runs_of_check (by decide +kernel), rfl, rfl, rfl, by decide +kernel, by decide +kernel⟩,
    ⟨_, runs_of_check (by decide +kernel), rfl, rfl, rfl, .svc, .usr, rfl, by decide +kernel, by decide +kernel⟩⟩

theorem witness_BlockReturnStops :
    (∃ o, Runs (.ldm .al false true true false 0 0x8000#16) (arm []) .sys ∧
      blockLoad? (arm []) .sys (.ldm .al false true true false 0 0x8000#16) = some o ∧
      unpredictableOperands .sys (.ldm .al false true true false 0 0x8000#16) = false ∧ o.returns = true) ∧
    (∃ o, Runs (.ldm .al false true true false 0 0x8000#16) (core 0x000000D3#32 0#32 [] []) .svc ∧
      blockLoad? (core 0x000000D3#32 0#32 [] []) .svc (.ldm .al false true true false 0 0x8000#16) = some o ∧
      unpredictableOperands .svc (.ldm .al false true true false 0 0x8000#16) = false ∧ o.returns = true ∧
      (core 0x000000D3#32 0#32 [] []).spsrDef.get .svc = false) ∧
    (∃ o, Runs (.ldm .al false true true false 0 0x8000#16) (withSpsr (core 0x000000D3#32 0#32 [] []) .svc 0#32) .svc ∧
      blockLoad? (withSpsr (core 0x000000D3#32 0#32 [] []) .svc 0#32) .svc (.ldm .al false true true false 0 0x8000#16) = some o ∧
      unpredictableOperands .svc (.ldm .al false true true false 0 0x8000#16) = false ∧ o.returns = true ∧ (withSpsr (core 0x000000D3#32 0#32 [] []) .svc 0#32).spsrDef.get .svc = true ∧
      ∀ m', ((withSpsr (core 0x000000D3#32 0#32 [] []) .svc 0#32).spsr.get .svc).extractLsb' 0 5 ≠ Mode.bits m') :=
  ⟨⟨_, runs_of_check (by decide +kernel), rfl, rfl, rfl⟩, ⟨_, runs_of_check (by decide +kernel), rfl, rfl, rfl, by decide +kernel⟩,
    ⟨_, runs_of_check (by decide +kernel), rfl, rfl, rfl, by decide +kernel, by intro m'; cases m' <;> decide +kernel⟩⟩

theorem witness_BlockStoreCompletes :
    (∃ o, Runs (.stm .al true false false true 13 0x8001#16) (arm [(13, 4)]) .sys ∧
      blockStore? (arm [(13, 4)]) .sys (.stm .al true false false true 13 0x8001#16) = some o ∧ o.regs = [0, 15] ∧
      unpredictableOperands .sys (.stm .al true false false true 13 0x8001#16) = false ∧
      (∀ k, k < 2 → (arm [(13, 4)]).accepts (o.address k) = true ∧ (arm [(13, 4)]).isDevice (o.address k) = false)) ∧
    (∃ o, Runs (.tStmia 0 0x03#8) (mapped (thumb [(0, 0x6000)])) .sys ∧
      blockStore? (mapped (thumb [(0, 0x6000)])) .sys (.tStmia 0 0x03#8) = some o ∧ o.regs = [0, 1] ∧
      unpredictableOperands .sys (.tStmia 0 0x03#8) = false ∧
      (∀ k, k < 2 → (mapped (thumb [(0, 0x6000)])).accepts (o.address k) = true ∧ (mapped (thumb [(0, 0x6000)])).isDevice (o.address k) = true)) :=
  ⟨⟨_, runs_of_check (by decide +kernel), rfl, by decide +kernel, rfl, by decide +kernel⟩,
    ⟨_, runs_of_check (by decide +kernel), rfl, by decide +kernel, by decide +kernel, by decide +kernel⟩⟩

/-- The second of three words faults. -/
theorem witness_BlockLoadAborts :
    ∃ o, Runs (.ldm .al false true false true 0 0x000E#16) (mapped (arm [(0, 0x3FFC)])) .sys ∧
      blockLoad? (mapped (arm [(0, 0x3FFC)])) .sys (.ldm .al false true false true 0 0x000E#16) = some o ∧
      unpredictableOperands .sys (.ldm .al false true false true 0 0x000E#16) = false ∧ 1 < o.regs.length ∧ o.returns = false ∧
      (∀ k, k < 1 → (mapped (arm [(0, 0x3FFC)])).answers false (o.address k) = true) ∧
      (mapped (arm [(0, 0x3FFC)])).answers false (o.address 1) = false :=
  ⟨_, runs_of_check (by decide +kernel), rfl, rfl, by decide +kernel, rfl, by decide +kernel, by decide +kernel⟩

theorem witness_BlockStoreAborts :
    ∃ o, Runs (.tPush true 0x01#8) (mapped (thumb [(13, 0x4004)])) .sys ∧
      blockStore? (mapped (thumb [(13, 0x4004)])) .sys (.tPush true 0x01#8) = some o ∧
      unpredictableOperands .sys (.tPush true 0x01#8) = false ∧ 1 < o.regs.length ∧
      (∀ k, k < 1 → (mapped (thumb [(13, 0x4004)])).accepts (o.address k) = true ∧ (mapped (thumb [(13, 0x4004)])).isDevice (o.address k) = false) ∧
      (mapped (thumb [(13, 0x4004)])).accepts (o.address 1) = false :=
  ⟨_, runs_of_check (by decide +kernel), rfl, by decide +kernel, by decide +kernel, by decide +kernel, by decide +kernel⟩

/-- Storage, a device, an absent window, a window that refuses the write only, and one that refuses the read only. -/
theorem witness_Swap :
    (Runs (.swp .al 2 0 1) (mapped (arm [(2, 0x3FFF)])) .sys ∧ unpredictableOperands .sys (.swp .al 2 0 1) = false ∧
      Width.defined .word (mapped (arm [(2, 0x3FFF)])) ((mapped (arm [(2, 0x3FFF)])).x .sys 2) ∧
      (mapped (arm [(2, 0x3FFF)])).answers false (Width.request .word ((mapped (arm [(2, 0x3FFF)])).x .sys 2)) = true ∧
      (mapped (arm [(2, 0x3FFF)])).accepts (Width.request .word ((mapped (arm [(2, 0x3FFF)])).x .sys 2)) = true ∧
      (mapped (arm [(2, 0x3FFF)])).isDevice (Width.request .word ((mapped (arm [(2, 0x3FFF)])).x .sys 2)) = false) ∧
    (Runs (.swpb .al 2 0 1) (mapped (arm [(2, 0x6000)])) .sys ∧ unpredictableOperands .sys (.swpb .al 2 0 1) = false ∧
      (mapped (arm [(2, 0x6000)])).answers false (Width.request .byte ((mapped (arm [(2, 0x6000)])).x .sys 2)) = true ∧
      (mapped (arm [(2, 0x6000)])).accepts (Width.request .byte ((mapped (arm [(2, 0x6000)])).x .sys 2)) = true ∧
      (mapped (arm [(2, 0x6000)])).isDevice (Width.request .byte ((mapped (arm [(2, 0x6000)])).x .sys 2)) = true) ∧
    (Runs (.swpb .al 2 0 1) (mapped (arm [(2, 0x4000)])) .sys ∧
      (mapped (arm [(2, 0x4000)])).answers false (Width.request .byte ((mapped (arm [(2, 0x4000)])).x .sys 2)) = false) ∧
    (mapped (arm [(2, 0x5000)])).accepts (Width.request .byte ((mapped (arm [(2, 0x5000)])).x .sys 2)) = false ∧
    (mapped (arm [(2, 0x7000)])).answers false (Width.request .byte ((mapped (arm [(2, 0x7000)])).x .sys 2)) = false :=
  ⟨⟨runs_of_check (by decide +kernel), rfl, .inl rfl, by decide +kernel⟩, ⟨runs_of_check (by decide +kernel), rfl, by decide +kernel⟩,
    ⟨runs_of_check (by decide +kernel), by decide +kernel⟩, by decide +kernel, by decide +kernel⟩

theorem witness_Branch : Runs (.b .al 0x800000#24) (arm []) .sys ∧ Runs (.bl .ne 0x7FFFFF#24) (arm []) .sys ∧
    (arm []).mode? = some .sys ∧ psrT (arm []).cpsr = false ∧ condPassed .eq (arm []).cpsr = false :=
  ⟨runs_of_check (by decide +kernel), runs_of_check (by decide +kernel), rfl, rfl, rfl⟩

theorem witness_BranchExchange :
    (Runs (.bx .al 0) (arm [(0, 0x1001)]) .sys ∧ ((arm [(0, 0x1001)]).x .sys 0).toNat % 2 = 1) ∧
    (Runs (.tBx 15) (thumb []) .sys ∧ ((thumb []).x .sys 15).toNat % 4 = 0 ∧ Instr.isThumb (.tBx 15) = true) ∧
    (Runs (.bx .al 0) (arm [(0, 0x1002)]) .sys ∧ ((arm [(0, 0x1002)]).x .sys 0).toNat % 4 = 2) ∧
    Runs (.bx .al 15) (arm []) .sys :=
  ⟨⟨runs_of_check (by decide +kernel), by decide +kernel⟩, ⟨runs_of_check (by decide +kernel), by decide +kernel, rfl⟩,
    ⟨runs_of_check (by decide +kernel), by decide +kernel⟩, runs_of_check (by decide +kernel)⟩

theorem witness_ThumbBranch : (Runs (.tBle 0x80#8) (thumb []) .sys ∧ thumbBranch? (.tBle 0x80#8) = some (.le, 0x80#8)) ∧
    Runs (.tB 0x400#11) (thumb []) .sys :=
  ⟨⟨runs_of_check (by decide +kernel), rfl⟩, runs_of_check (by decide +kernel)⟩

theorem witness_ThumbLongBranch : phys .sys 14 = some (.lr .usr) ∧ Runs (.tBlFirst 0x400#11) (thumb []) .sys ∧
    Runs (.tBlSecond 0x7FF#11) (thumb []) .sys :=
  ⟨rfl, runs_of_check (by decide +kernel), runs_of_check (by decide +kernel)⟩

theorem witness_StatusRead : Runs (.mrs .al .cpsr 14) (arm []) .sys ∧
    (Runs (.mrs .al .spsr 0) (withSpsr (core 0x000000D3#32 0#32 [] []) .svc 0#32) .svc ∧
      (withSpsr (core 0x000000D3#32 0#32 [] []) .svc 0#32).spsrDef.get .svc = true) ∧
    (Runs (.mrs .al .spsr 0) (core 0x000000D3#32 0#32 [] []) .svc ∧ (core 0x000000D3#32 0#32 [] []).spsrDef.get .svc = false) ∧
    Runs (.mrs .al .spsr 0) (arm []) .sys ∧ Runs (.mrs .al .cpsr 15) (arm []) .sys :=
  ⟨runs_of_check (by decide +kernel), ⟨runs_of_check (by decide +kernel), by decide +kernel⟩,
    ⟨runs_of_check (by decide +kernel), by decide +kernel⟩, runs_of_check (by decide +kernel), runs_of_check (by decide +kernel)⟩

/-- MSR CPSR with every field: a legal mode, no mode, and a changed state bit; the immediate form. -/
theorem witness_StatusWriteCpsr :
    (Runs (.msrR .al .cpsr 0b1111#4 0) (arm [(0, 0xFFFFFF1F)]) .sys ∧ ((arm [(0, 0xFFFFFF1F)]).x .sys 0).extractLsb' 0 5 = Mode.bits .sys ∧
      ((arm [(0, 0xFFFFFF1F)]).x .sys 0).getLsbD 5 = false) ∧
    (Runs (.msrR .al .cpsr 0b0001#4 0) (arm []) .sys ∧ ∀ m', ((arm []).x .sys 0).extractLsb' 0 5 ≠ Mode.bits m') ∧
    (Runs (.msrR .al .cpsr 0b0001#4 0) (arm [(0, 0x30)]) .sys ∧ ((arm [(0, 0x30)]).x .sys 0).extractLsb' 0 5 = Mode.bits .usr ∧
      ((arm [(0, 0x30)]).x .sys 0).getLsbD 5 = true) ∧
    Runs (.msrI .al .cpsr 0b1000#4 0x2#4 0xF0#8) (arm []) .sys :=
  ⟨⟨runs_of_check (by decide +kernel), by decide +kernel, by decide +kernel⟩,
    ⟨runs_of_check (by decide +kernel), by intro m'; cases m' <;> decide +kernel⟩,
    ⟨runs_of_check (by decide +kernel), by decide +kernel, by decide +kernel⟩, runs_of_check (by decide +kernel)⟩

theorem witness_StatusWriteSpsr : Runs (.msrR .al .spsr 0b1001#4 0) (arm []) .sys ∧
    Runs (.msrR .al .spsr 0b1001#4 0) (core 0x000000D3#32 0#32 [] []) .svc ∧ Mode.svc = ExcMode.svc.mode ∧
    Runs (.msrI .al .spsr 0b1000#4 0x2#4 0xF0#8) (core 0x000000D1#32 0#32 [] []) .fiq ∧ Mode.fiq = ExcMode.fiq.mode :=
  ⟨runs_of_check (by decide +kernel), runs_of_check (by decide +kernel), rfl, runs_of_check (by decide +kernel), rfl⟩

theorem witness_SoftwareInterrupt : Runs (.swi .al 0xFFFFFF#24) (arm []) .sys ∧ Runs (.tSwi 0xFF#8) (thumb []) .sys :=
  ⟨runs_of_check (by decide +kernel), runs_of_check (by decide +kernel)⟩

theorem witness_UndefinedSpace : Runs (.undefined .al 0x00000#20 0x0#4) (arm []) .sys ∧ Runs (.tUndefined 0xFF#8) (thumb []) .sys :=
  ⟨runs_of_check (by decide +kernel), runs_of_check (by decide +kernel)⟩

/-- A coprocessor that answers one word, and one that answers three. -/
def answered (s : State) (first : Word) (more : List Word) : State := { s with copAnswers := [.accepted first more] }

theorem witness_CoprocessorAbsent :
    (∃ q, Runs (.mrc .al 0b000#3 0 0 15 0b000#3 0) (arm []) .sys ∧
      copRequest? (arm []) .sys (.mrc .al 0b000#3 0 0 15 0b000#3 0) = some q ∧
      unpredictableOperands .sys (.mrc .al 0b000#3 0 0 15 0b000#3 0) = false ∧ (arm []).copAnswers = []) ∧
    (∃ q, Runs (.ldc .al true true false false 0 2 1 0x00#8) { arm [] with copAnswers := [.absent] } .sys ∧
      copRequest? { arm [] with copAnswers := [.absent] } .sys (.ldc .al true true false false 0 2 1 0x00#8) = some q ∧
      unpredictableOperands .sys (.ldc .al true true false false 0 2 1 0x00#8) = false) :=
  ⟨⟨_, runs_of_check (by decide +kernel), rfl, rfl, by decide +kernel⟩, ⟨_, runs_of_check (by decide +kernel), rfl, rfl⟩⟩

theorem witness_CoprocessorOperation :
    (∃ q, Runs (.cdp .al 2 4 3 1 6 5) (answered (arm []) 0#32 []) .sys ∧
      copRequest? (answered (arm []) 0#32 []) .sys (.cdp .al 2 4 3 1 6 5) = some q) ∧
    (∃ q, Runs (.mcr .al 0 1 15 15 0 0) (answered (arm []) 0#32 []) .sys ∧
      copRequest? (answered (arm []) 0#32 []) .sys (.mcr .al 0 1 15 15 0 0) = some q) :=
  ⟨⟨_, runs_of_check (by decide +kernel), rfl⟩, ⟨_, runs_of_check (by decide +kernel), rfl⟩⟩

theorem witness_CoprocessorRead : Runs (.mrc .al 0 0 0 15 0 0) (answered (arm []) 1#32 []) .sys ∧
    Runs (.mrc .al 0 0 15 15 0 0) (answered (arm []) 0x60000000#32 []) .sys ∧
    (answered (arm []) 1#32 []).copAnswers = .accepted 1#32 [] :: [] :=
  ⟨runs_of_check (by decide +kernel), runs_of_check (by decide +kernel), rfl⟩

theorem witness_CoprocessorLoad : Runs (.ldc .al true true false false 3 2 1 0x04#8) (answered (arm [(3, 0x1000)]) 0#32 [0#32]) .sys ∧
    unpredictableOperands .sys (.ldc .al true true false false 3 2 1 0x04#8) = false ∧
    ∀ k, k < 2 → (answered (arm [(3, 0x1000)]) 0#32 [0#32]).answers false
      (copWordAddress (indexedAddress true true false 3 ((answered (arm [(3, 0x1000)]) 0#32 [0#32]).x .sys 3) 0x10#32) k) = true :=
  ⟨runs_of_check (by decide +kernel), rfl, by decide +kernel⟩

theorem witness_CoprocessorStore : Runs (.stc .al true false false true 3 2 1 0x02#8) (answered (mapped (arm [(3, 0x3FF8)])) 1#32 [2#32]) .sys ∧
    unpredictableOperands .sys (.stc .al true false false true 3 2 1 0x02#8) = false ∧
    ∀ k, k < 2 → (answered (mapped (arm [(3, 0x3FF8)])) 1#32 [2#32]).accepts
      (copWordAddress (indexedAddress true false true 3 ((answered (mapped (arm [(3, 0x3FF8)])) 1#32 [2#32]).x .sys 3) 0x08#32) k) = true :=
  ⟨runs_of_check (by decide +kernel), rfl, by decide +kernel⟩

/-- The second of two words faults: of LDC in the absent window, of STC in the read-only one. -/
theorem witness_CoprocessorTransferAborts :
    (Runs (.ldc .al true true false false 3 2 1 0x00#8) (answered (mapped (arm [(3, 0x3FFC)])) 0#32 [0#32]) .sys ∧
      unpredictableOperands .sys (.ldc .al true true false false 3 2 1 0x00#8) = false ∧
      (answered (mapped (arm [(3, 0x3FFC)])) 0#32 [0#32]).answers false
        (copWordAddress (indexedAddress true true false 3 ((answered (mapped (arm [(3, 0x3FFC)])) 0#32 [0#32]).x .sys 3) 0#32) 0) = true ∧
      (answered (mapped (arm [(3, 0x3FFC)])) 0#32 [0#32]).answers false
        (copWordAddress (indexedAddress true true false 3 ((answered (mapped (arm [(3, 0x3FFC)])) 0#32 [0#32]).x .sys 3) 0#32) 1) = false) ∧
    (Runs (.stc .al true true false false 3 2 1 0x00#8) (answered (mapped (arm [(3, 0x5000)])) 0#32 [0#32]) .sys ∧
      (answered (mapped (arm [(3, 0x5000)])) 0#32 [0#32]).accepts
        (copWordAddress (indexedAddress true true false 3 ((answered (mapped (arm [(3, 0x5000)])) 0#32 [0#32]).x .sys 3) 0#32) 0) = false) :=
  ⟨⟨runs_of_check (by decide +kernel), rfl, by decide +kernel, by decide +kernel⟩, ⟨runs_of_check (by decide +kernel), by decide +kernel⟩⟩

theorem witness_ExceptionEntry : psrT (arm []).cpsr = false ∧ psrT (thumb []).cpsr = true ∧ (thumb []).params.pabtThumbLr = .next ∧
    ({ thumb [] with params := { Config.params with pabtThumbLr := .plus4 } } : State).params.pabtThumbLr = .plus4 := by decide +kernel

/-- MOV R0, R0 in storage, in ARM state and (LSL R0, R0, #0) in THUMB state; MUL R0, R0, R1, which is a violation. -/
theorem witness_StepRunsDecoded :
    ((idle 0x1F#32).Inv ∧ (idle 0x1F#32).halted = none ∧ (idle 0x1F#32).resetPending = false ∧
      ((idle 0x1F#32).fiqPending && !psrF (idle 0x1F#32).cpsr) = false ∧ ((idle 0x1F#32).irqPending && !psrI (idle 0x1F#32).cpsr) = false ∧
      (idle 0x1F#32).answers true (idle 0x1F#32).pc = true ∧ (idle 0x1F#32).isDevice (idle 0x1F#32).pc = false ∧
      decodeBytes true false ((List.range 4).map (fun k => (idle 0x1F#32).mem.read ((idle 0x1F#32).pc.toNat + k))) =
        .ok (.movR .al false 0 0b00000#5 .lsl 0, [])) ∧
    decodeBytes true true ((List.range 2).map (fun k => (thumb []).mem.read ((thumb []).pc.toNat + k))) = .ok (.tLslI 0b00000#5 0 0, []) ∧
    (thumb []).Inv ∧ (thumb []).answers true (thumb []).pc = true ∧ (thumb []).isDevice (thumb []).pc = false ∧ halts (arm []) 0xE0000190 .unpredictable = true :=
  ⟨⟨inv_of_check (i := .movR .al false 0 0b00000#5 .lsl 0) (m := .sys) (by decide +kernel), rfl, rfl, rfl, rfl, by decide +kernel, by decide +kernel, rfl⟩,
    rfl, inv_of_check (i := .tLslI 0b00000#5 0 0) (m := .sys) (by decide +kernel), by decide +kernel, by decide +kernel, by decide +kernel⟩

/-- Each clause in turn; in the last a pending, masked FIQ. -/
theorem witness_BoundaryOrder : (idle 0#32).halted = none ∧ ({ idle 0#32 with resetPending := true } : State).resetPending = true ∧
    (idle 0#32).mode? = none ∧ (idle 0x10#32).mode? ≠ none ∧ (core 0x10#32 0x8002#32 [] []).pcAligned = false ∧
    (idle 0x10#32).pcAligned = true ∧ psrF (idle 0x10#32).cpsr = false ∧ psrF (idle 0x50#32).cpsr = true ∧
    psrI (idle 0x50#32).cpsr = false := by decide +kernel

theorem witness_FetchOutcomes :
    ((hole 0x8000 4 (idle 0x1F#32)).Inv ∧ (hole 0x8000 4 (idle 0x1F#32)).answers true (hole 0x8000 4 (idle 0x1F#32)).pc = false) ∧
    ((core 0x1F#32 0x8000#32 [] [(0x8000, 0xE12FFF30)]).Inv ∧
      decodeBytes true false ((List.range 4).map (fun k => (core 0x1F#32 0x8000#32 [] [(0x8000, 0xE12FFF30)]).mem.read (0x8000 + k))) =
        .error .noMatch) ∧
    (({ idle 0x1F#32 with regions := [⟨0x8000, 4, .device⟩] } : State).Inv ∧
      ({ idle 0x1F#32 with regions := [⟨0x8000, 4, .device⟩] } : State).answers true 0x8000#32 = true ∧
      ({ idle 0x1F#32 with regions := [⟨0x8000, 4, .device⟩] } : State).isDevice 0x8000#32 = true) :=
  ⟨⟨inv_of_check (i := .b .al 0#24) (m := .sys) (by decide +kernel), by decide +kernel⟩,
    ⟨inv_of_check (i := .b .al 0#24) (m := .sys) (by decide +kernel), rfl⟩,
    ⟨inv_of_check (i := .b .al 0#24) (m := .sys) (by decide +kernel), by decide +kernel⟩⟩

/-- The last two clauses: a run that is at its end, and one that a violation stops elsewhere. -/
theorem witness_ViolationHalts : step (core 0x10#32 0x8002#32 [] []) = .fault (.violation .misalignedPC) ∧
    ({ idle 0x10#32 with halted := some .noSPSR } : State).halted = some .noSPSR ∧ (∃ t, step (idle 0x1F#32) = .next t) ∧
    State.runTo 0x8000#32 0 (idle 0x1F#32) = some (idle 0x1F#32) ∧ (core 0x10#32 0x8002#32 [] []).pc ≠ 0x8000#32 :=
  ⟨rfl, rfl, ⟨_, rfl⟩, rfl, by decide +kernel⟩

theorem witness_StepKeepsInv : (idle 0x1F#32).Inv ∧ ∃ t, step (idle 0x1F#32) = .next t :=
  ⟨inv_of_check (i := .b .al 0#24) (m := .sys) (by decide +kernel), _, rfl⟩

/-- A step that runs an instruction, and the two that take an interrupt. -/
theorem witness_StepFrame : (∃ t, step (idle 0x1F#32) = .next t) ∧
    (∃ t, step { idle 0x1F#32 with fiqPending := true } = .next t) ∧ (∃ t, step { idle 0x1F#32 with irqPending := true } = .next t) :=
  ⟨⟨_, rfl⟩, ⟨_, rfl⟩, ⟨_, rfl⟩⟩

theorem witness_ReservedBits : (∃ t, exec (.msrI .al .cpsr 0b1000#4 0x2#4 0xF0#8) (arm []) = .next t) ∧
    (∃ t, exec (.swi .al 0#24) (arm []) = .next t) ∧
    (∃ t, exec (.movR .al true 15 0b00000#5 .lsl 14) (withSpsr (core 0x000000D3#32 0#32 [] []) .svc 0x60000030#32) = .next t) :=
  ⟨⟨_, rfl⟩, ⟨_, rfl⟩, ⟨_, rfl⟩⟩

theorem witness_StateAndMode : (∃ t, exec (.bx .al 0) (arm [(0, 1)]) = .next t) ∧ (∃ t, exec (.tUndefined 0#8) (thumb []) = .next t) ∧
    (∃ t, exec (.movR .al true 15 0b00000#5 .lsl 14) (withSpsr (core 0x000000D3#32 0#32 [] []) .svc 0x60000030#32) = .next t) :=
  ⟨⟨_, rfl⟩, ⟨_, rfl⟩, ⟨_, rfl⟩⟩

theorem witness_WarmReset : (idle 0x30#32).halted = none ∧
    ({ idle 0x30#32 with halted := some .noSPSR } : State).halted = some .noSPSR := ⟨rfl, rfl⟩

/-- The lowest and the highest word of the address space. -/
theorem witness_Storage : Memory.wf [] = true ∧ Memory.wf [(0, 0x01#8), (2 ^ 32 - 1, 0xFF#8)] = true ∧
    (∃ t, (arm []).memWrite 0xFFFFFFFC#32 (wordBytes 0x01020304#32) = some t ∧ t.answers false 0xFFFFFFFF#32 = true ∧ t.isDevice 0xFFFFFFFF#32 = false) ∧
    (arm []).isDevice 0xFFFFFFFC#32 = false :=
  ⟨rfl, by decide +kernel, ⟨_, rfl, by decide +kernel⟩, by decide +kernel⟩

theorem witness_HostAccess : phys .irq 13 = some (.sp .irq) ∧ (arm []).mode? = some .sys ∧ (arm []).spsrDef.get .abt = false := by
  decide +kernel

end Sys2Proof.Tests
end

section
/-! PROOFS. The family of `00_scope.md`. The rows of each table exclude each other, so the decoder finds the one row that
matches an instruction's bits, and its answer to every encoding can be said in one equation. -/
namespace Sys2Proof

/-! ### The row the decoder finds -/

section
variable {α : Type} {n : Nat} {mask bits : α → BitVec n}

/-- Two rows that match the same word agree on the bits that both of them fix. -/
theorem bits_agree_of_match {a b : α} {w : BitVec n} (ha : w &&& mask a = bits a) (hb : w &&& mask b = bits b) :
    bits a &&& mask b = bits b &&& mask a := by
  rw [← ha, ← hb, BitVec.and_assoc, BitVec.and_assoc, BitVec.and_comm (mask a)]

/-- Among rows that disagree pairwise on a bit both fix, the search finds whichever row matches. -/
theorem find_row_of_match {rows : List α} (hrows : rows.Pairwise fun a b => bits a &&& mask b ≠ bits b &&& mask a)
    {r : α} (hr : r ∈ rows) {w : BitVec n} (hw : w &&& mask r = bits r) :
    rows.find? (fun a => w &&& mask a == bits a) = some r := by
  obtain ⟨before, after, rfl⟩ := List.append_of_mem hr
  have hbefore : ∀ a ∈ before, ¬ w &&& mask a = bits a := fun a ha hmatch =>
    (List.pairwise_append.1 hrows).2.2 a ha r List.mem_cons_self (bits_agree_of_match hmatch hw)
  refine List.find?_eq_some_iff_append.2 ⟨beq_iff_eq.2 hw, before, after, rfl, fun a ha => ?_⟩
  rw [beq_eq_false_iff_ne.2 (hbefore a ha), Bool.not_false]

end

/-- Any two ARM rows fix some bit differently (R110). -/
theorem armRows_disagree : armRows.Pairwise fun a b => a.bits &&& b.mask ≠ b.bits &&& a.mask := by decide +kernel

/-- Any two THUMB rows fix some bit differently (R113, R250). -/
theorem thumbRows_disagree : thumbRows.Pairwise fun a b => a.bits &&& b.mask ≠ b.bits &&& a.mask := by decide +kernel

/-- The decoder's answer to a word is that of any row that matches it. -/
theorem decodeArm_of_match (extras : Bool) {r : ArmRow} (hr : r ∈ armRows) {w : Word} (hw : w &&& r.mask = r.bits) :
    decodeArm extras w = if r.extras && !extras then .error .needsExtras else .ok (r.build w) := by
  simp only [decodeArm, find_row_of_match armRows_disagree hr hw]

/-- The decoder's answer to a halfword is that of any row that matches it. -/
theorem decodeThumb_of_match (extras : Bool) {r : ThumbRow} (hr : r ∈ thumbRows) {h : Half}
    (hh : h &&& r.mask = r.bits) :
    decodeThumb extras h = if r.extras && !extras then .error .needsExtras else .ok (r.build h) := by
  simp only [decodeThumb, find_row_of_match thumbRows_disagree hr hh]

/-- An instruction's own bits decode to it, unless it is outside the tag list and V4T_EXTRAS is false (R4, R110). -/
theorem decode_encode (extras : Bool) (i : Instr) :
    decode extras (encode i) = if i.needsExtras && !extras then .error .needsExtras else .ok i := by
  have hrow := i.hasRow
  unfold Instr.HasRow at hrow
  cases hcode : encode i with
  | arm w =>
    rw [hcode] at hrow
    obtain ⟨r, hr, hmatch, hextras, hbuild⟩ := hrow
    rw [decode, decodeArm_of_match extras hr hmatch, hextras, hbuild]
  | thumb h =>
    rw [hcode] at hrow
    obtain ⟨r, hr, hmatch, hextras, hbuild⟩ := hrow
    rw [decode, decodeThumb_of_match extras hr hmatch, hextras, hbuild]

/-- Settles O5: the decoder's answer to the instruction's own bits, with V4T_EXTRAS false. -/
theorem extrasGate : Obligations.ExtrasGate := by
  unfold Obligations.ExtrasGate
  intro i hi
  rw [decode_encode, hi]
  rfl

end Sys2Proof
end

section
/-! PROOFS. The family of `10_state.md`. What a step keeps is said once over the ways a cycle answers a next state
(`cycle_cases`): an exception entry, whose fields are those of `raise`, or an instruction, which has the shape of `Ends`. -/
namespace Sys2Proof.Machine

variable {s t u : State}

/-! ### Legal states -/

/-- An exception entry is legal whatever mode and pc it starts from: the mode becomes the target's, and the vector is a word
address (R305). -/
theorem State.inv_raise (hmem : s.mem.wf = true) (hbase : s.params.vectorBase.extractLsb' 0 2 = 0b00#2) (k : ExcKind)
    (a : Word) : (s.raise k a).Inv where
  mem := hmem
  mode := by simp [State.mode?]
  pc := by
    have hlow : (s.params.vectorBase + k.offset).extractLsb' 0 2 = 0b00#2 := by
      rw [low_two_add _ _ (by cases k <;> rfl), hbase]
    simp [State.pcAligned, hlow]
  base := hbase

/-- What a fetch decodes to is of the instruction set of the state bit (R35, R132). -/
theorem isThumb_of_fetch {extras : Bool} {code : Code} {i : Instr} (hf : s.fetch = some code)
    (hd : decode extras code = .ok i) : psrT s.cpsr = i.isThumb := by
  rw [← State.fetch_code hf, decode_isThumb hd]
  cases code <;> rfl

theorem cycle_keeps_inv (hs : s.Inv) (h : s.cycle = .next u) : u.Inv := by
  obtain ⟨hmem, -, hpc, hbase⟩ := hs
  rcases cycle_cases h with ⟨-, rfl⟩ | ⟨-, -, -, ⟨-, -, rfl⟩ | ⟨-, -, rfl⟩ | ⟨-, rfl⟩ | ⟨code, i, hfetch, hdecode, hexec⟩⟩
  · exact State.inv_raise (s := { s with resetPending := false }) hmem hbase .reset _
  · exact State.inv_raise (s := { s with fiqPending := false }) hmem hbase .fastInterrupt _
  · exact State.inv_raise (s := { s with irqPending := false }) hmem hbase .normalInterrupt _
  · exact State.inv_raise hmem hbase .prefetchAbort _
  · have hends := exec_ends hexec
    exact ⟨hends.wf hmem, hends.mode, hends.pc hbase (isThumb_of_fetch hfetch hdecode) hpc, by rw [hends.params, hbase]⟩

/-- The tick moves no field a legal state speaks of. -/
theorem State.Inv.tick (h : u.Inv) : u.tick.Inv := ⟨h.mem, h.mode, h.pc, h.base⟩

/-- Settles O52: each way a cycle answers a next state keeps the invariant, and so does the tick. -/
theorem stepKeepsInv : Obligations.StepKeepsInv := by
  unfold Obligations.StepKeepsInv
  intro s t hs h
  obtain ⟨-, u, hcycle, rfl⟩ := step_next h
  exact (cycle_keeps_inv hs hcycle).tick

/-- Settles O53: each field of the invariant evaluates at the state after reset. -/
theorem resetIsLegal : Obligations.ResetIsLegal := ⟨rfl, rfl, rfl, rfl⟩

/-! ### The frame of a step -/

/-- An exception entry makes no SPSR undefined (R37, R305). -/
theorem State.spsrDef_raise {e : ExcMode} (h : s.spsrDef.get e = true) (k : ExcKind) (a : Word) :
    (s.raise k a).spsrDef.get e = true := by
  rw [State.raise_spsrDef, Saved.get_set, h, ite_self]

/-- What every cycle from `s` to `u` leaves: counter, parameters and windows stay, no reset is pending, a latch is cleared only
where its interrupt is taken, and a defined SPSR stays defined. -/
structure CycleFrame (s u : State) : Prop where
  halted       : u.halted = s.halted
  cycles       : u.cycles = s.cycles
  draws        : u.draws = s.draws
  params       : u.params = s.params
  regions      : u.regions = s.regions
  resetPending : u.resetPending = false
  irqPending   : u.irqPending = s.irqPending ∨
    (u.irqPending = false ∧ s.irqPending = true ∧ psrI s.cpsr = false ∧ u.pc = s.params.vectorBase + 0x18#32)
  fiqPending   : u.fiqPending = s.fiqPending ∨
    (u.fiqPending = false ∧ s.fiqPending = true ∧ psrF s.cpsr = false ∧ u.pc = s.params.vectorBase + 0x1C#32)
  spsrDef      : ∀ e, s.spsrDef.get e = true → u.spsrDef.get e = true

theorem cycle_frame (h : s.cycle = .next u) : CycleFrame s u := by
  rcases cycle_cases h with ⟨-, rfl⟩ |
    ⟨hreset, -, -, ⟨hfiq, hF, rfl⟩ | ⟨hirq, hI, rfl⟩ | ⟨-, rfl⟩ | ⟨_, _, -, -, hexec⟩⟩
  · exact ⟨rfl, rfl, rfl, rfl, rfl, rfl, .inl rfl, .inl rfl, fun _ he => State.spsrDef_raise he _ s.pc⟩
  · exact ⟨rfl, rfl, rfl, rfl, rfl, hreset, .inl rfl, .inr ⟨rfl, hfiq, hF, rfl⟩, fun _ he => State.spsrDef_raise he _ s.pc⟩
  · exact ⟨rfl, rfl, rfl, rfl, rfl, hreset, .inr ⟨rfl, hirq, hI, rfl⟩, .inl rfl, fun _ he => State.spsrDef_raise he _ s.pc⟩
  · exact ⟨rfl, rfl, rfl, rfl, rfl, hreset, .inl rfl, .inl rfl, fun _ he => State.spsrDef_raise he _ s.pc⟩
  · have hends := exec_ends hexec
    exact ⟨hends.halted, hends.cycles, hends.draws, hends.params, hends.regions, hends.resetPending.trans hreset,
      .inl hends.irqPending, .inl hends.fiqPending, hends.spsrDef⟩

/-- Settles O54: the frame of the cycle, and the tick that ends it. -/
theorem stepFrame : Obligations.StepFrame := by
  unfold Obligations.StepFrame
  intro s t h
  obtain ⟨-, u, hcycle, rfl⟩ := step_next h
  have hframe := cycle_frame hcycle
  refine ⟨?_, ?_, hframe.params, hframe.regions, hframe.resetPending, hframe.irqPending, hframe.fiqPending, hframe.spsrDef⟩
  · rw [State.tick_cycles, hframe.cycles, hframe.params]
  · rw [State.tick_draws, hframe.draws]

/-! ### Violations and the end of a run -/

theorem exec_ne_refused (i : Instr) (s : State) (r : Refusal) : exec i s ≠ .refused r := by
  intro h
  have hgood := exec_good i s
  rw [h] at hgood
  exact hgood

theorem runFetched_ne_refused (s : State) (r : Refusal) : s.runFetched ≠ .refused r := by
  unfold State.runFetched
  split
  · nofun
  · split
    · nofun
    · exact exec_ne_refused _ s r

theorem cycle_ne_refused (s : State) (r : Refusal) : s.cycle ≠ .refused r := by
  unfold State.cycle
  split
  · nofun
  split
  · nofun
  split
  · nofun
  split
  · nofun
  split
  · nofun
  exact runFetched_ne_refused s r

/-- No step is refused: every instruction has a meaning. -/
theorem step_ne_refused (s : State) (r : Refusal) : step s ≠ .refused r := by
  unfold step
  split
  · nofun
  · cases hc : s.cycle with
    | next u => nofun
    | fault f => nofun
    | refused r' => exact absurd hc (cycle_ne_refused s r')

theorem step_of_halted {v : Violation} (h : s.halted = some v) : step s = .fault (.halted v) := by
  simp only [step, h]

theorem State.atEnd_iff {endAt : Word} : s.atEnd endAt = true ↔ s.pc = endAt ∧ s.halted = none := by
  simp [State.atEnd, and_comm]

/-- A run that has an end state ends at its end address, in a core that is not halted (R365). -/
theorem State.atEnd_of_runTo {endAt : Word} {n : Nat} (h : s.runTo endAt n = some t) : t.atEnd endAt = true := by
  induction n generalizing s with
  | zero =>
    unfold State.runTo at h
    split at h
    · cases h; assumption
    · cases h
  | succ n ih =>
    unfold State.runTo at h
    split at h
    · cases h; assumption
    · split at h
      · exact ih h
      · cases h
      · cases h

/-- A run has no end state from where its first step faults, unless it has ended there (R365). -/
theorem State.runTo_of_fault {endAt : Word} {f : Fault} (n : Nat) (h : step s = .fault f)
    (hend : ¬ s.atEnd endAt = true) : s.runTo endAt n = none := by
  cases n with
  | zero => simp only [State.runTo, hend]; rfl
  | succ n => simp only [State.runTo, hend, h]; rfl

/-- Settles O51: what each answer of a step leaves, and where a run has an end state. -/
theorem violationHalts : Obligations.ViolationHalts := by
  unfold Obligations.ViolationHalts
  refine ⟨fun s v h => ?_, fun s v h => ?_, fun s t h => ?_, step_ne_refused, fun endAt n s t h => ?_,
    fun endAt n s f hfault hs => ?_⟩
  · rw [State.afterStep, h]; rfl
  · have hstep := step_of_halted h
    exact ⟨hstep, by rw [State.afterStep, hstep]; rfl⟩
  · obtain ⟨hrunning, u, hcycle, rfl⟩ := step_next h
    exact ⟨(cycle_frame hcycle).halted.trans hrunning, by rw [State.afterStep, h]; rfl⟩
  · exact State.atEnd_iff.1 (State.atEnd_of_runTo h)
  · refine State.runTo_of_fault n hfault fun hend => ?_
    obtain ⟨hpc, hrunning⟩ := State.atEnd_iff.1 hend
    exact hs.elim (· hpc) (· hrunning)

/-! ### What may change CPSR -/

/-- Only MSR to CPSR is of the kind that may write Q and the mode (R32, R46). -/
theorem Kind.msr_cases {i : Instr} (h : Kind.of i = .msr) :
    (∃ c mask rm, i = .msrR c .cpsr mask rm) ∨ ∃ c mask rot imm8, i = .msrI c .cpsr mask rot imm8 := by
  unfold Kind.of at h
  split at h
  · cases h
  · cases h
  · exact .inl ⟨_, _, _, rfl⟩
  · exact .inr ⟨_, _, _, _, rfl⟩
  · cases h

/-- Only BX is of the kind that may write the state bit (R35). -/
theorem Kind.bx_cases {i : Instr} (h : Kind.of i = .bx) : (∃ c r, i = .bx c r) ∨ ∃ r, i = .tBx r := by
  unfold Kind.of at h
  split at h
  · exact .inl ⟨_, _, rfl⟩
  · exact .inr ⟨_, rfl⟩
  · cases h
  · cases h
  · cases h

/-- Settles O55: CPSR is restored, saved by an entry that keeps its upper bits, or changed as the kind of the instruction
allows. -/
theorem reservedBits : Obligations.ReservedBits := by
  unfold Obligations.ReservedBits
  intro i s t h
  have hends := exec_ends h
  refine ⟨?_, hends.spsr⟩
  rcases hends.cpsr with hreturn | ⟨_, -, -, -, -, -, -, hreserved, hq⟩ | ⟨hreserved, hq, -, -⟩
  · exact .inl hreturn
  · exact .inr ⟨hreserved, .inl hq⟩
  · exact .inr ⟨hreserved, hq.imp_right Kind.msr_cases⟩

/-- Settles O56: CPSR is restored, replaced by an entry, or changed as the kind of the instruction allows. -/
theorem stateAndMode : Obligations.StateAndMode := by
  unfold Obligations.StateAndMode
  intro i s t h
  rcases (exec_ends h).cpsr with hreturn | ⟨k, hk, hpc, hspsr, hdef, hT, hM, -, -⟩ | ⟨-, -, hT, hM⟩
  · exact .inl hreturn
  · exact .inr (.inl ⟨k, hk, hpc, hspsr, hdef, hT, hM⟩)
  · exact .inr (.inr ⟨hT.imp_right Kind.bx_cases, hM.imp_right Kind.msr_cases⟩)

/-! ### The exception return form of LDM -/

/-- Neither User nor System mode has an SPSR to restore (R37, R38). -/
theorem State.returnPsr_noSPSR {m : Mode} (h : m = .usr ∨ m = .sys) : s.returnPsr m = .error .noSPSR := by
  simp only [State.returnPsr, State.readSpsr, Mode.saved_eq_none.2 h]

/-- An SPSR that nothing has defined is not restored (R37, R38). -/
theorem State.returnPsr_undefinedSPSR {e : ExcMode} (h : s.spsrDef.get e = false) :
    s.returnPsr e.mode = .error .undefinedSPSR := by
  have hsaved : e.mode.saved = some e := Mode.saved_eq_some.2 rfl
  simp only [State.returnPsr, State.readSpsr, hsaved, h, Bool.false_eq_true, if_false]

/-- An SPSR whose mode field is none of the seven is not restored (R36, R38). -/
theorem State.returnPsr_illegalMode {e : ExcMode} (hdef : s.spsrDef.get e = true)
    (hmode : ∀ m', psrM (s.spsr.get e) ≠ Mode.bits m') : s.returnPsr e.mode = .error .illegalMode := by
  have hsaved : e.mode.saved = some e := Mode.saved_eq_some.2 rfl
  have hnone : Mode.ofBits (psrM (s.spsr.get e)) = none :=
    Option.eq_none_iff_forall_ne_some.2 fun m' h => hmode m' (Mode.ofBits_eq_some.1 h)
  simp only [State.returnPsr, State.readSpsr, hsaved, hdef, hnone, Option.isSome_none, Bool.false_eq_true, if_true, if_false]

/-- A block load that is an exception return is LDM with the hat and R15 in its list (R203). -/
theorem blockLoad_returns {m : Mode} {i : Instr} {o : BlockOp} (h : blockLoad? s m i = some o) (ho : o.returns = true) :
    ∃ c p u w rn list, i = .ldm c p u true w rn list ∧ list.getLsbD 15 = true := by
  unfold blockLoad? at h
  split at h
  · rename_i c p u hat w rn list
    cases h
    obtain ⟨rfl, hlist⟩ : hat = true ∧ list.getLsbD 15 = true := by simpa [armBlock] using ho
    exact ⟨c, p, u, w, rn, list, rfl, hlist⟩
  · cases h; cases ho
  · cases h; cases ho
  · cases h

/-- Where section U leaves the exception return form of LDM defined, the tests on its operands that R203 makes pass. -/
theorem ldm_return_noClash {c : Cond} {p u w : Bool} {rn : Reg} {list : BitVec 16} {m : Mode}
    (hlist : list.getLsbD 15 = true) (hoperands : unpredictableOperands m (.ldm c p u true w rn list) = false) :
    blockClash list rn = false ∧ (w && (listRegs list).contains rn) = false := by
  have hbits : (list == 0x0000#16 || rn == 15 ||
    (if true && !list.getLsbD 15 then w || m == .usr || m == .sys else w && list.getLsbD rn.val)) = false := hoperands
  simp only [hlist, Bool.not_true, Bool.and_false, Bool.false_eq_true, if_false, Bool.or_eq_false_iff] at hbits
  obtain ⟨⟨hempty, hrn⟩, hbase⟩ := hbits
  have hcontains : (listRegs list).contains rn = list.getLsbD rn.val :=
    Bool.eq_iff_iff.2 (List.contains_iff_mem.trans mem_listRegs)
  exact ⟨Bool.or_eq_false_iff.2 ⟨hempty, hrn⟩, hcontains ▸ hbase⟩

/-- The exception return form of LDM tests the SPSR before any access (R203, R330). -/
theorem exec_ldm_of_returnPsr_error {c : Cond} {p u w : Bool} {rn : Reg} {list : BitVec 16} {m : Mode} {v : Violation}
    (hrun : Runs (.ldm c p u true w rn list) s m) (hlist : list.getLsbD 15 = true)
    (hoperands : unpredictableOperands m (.ldm c p u true w rn list) = false) (hpsr : s.returnPsr m = .error v) :
    exec (.ldm c p u true w rn list) s = .fault (.violation v) := by
  obtain ⟨hblock, hbase⟩ := ldm_return_noClash hlist hoperands
  refine (hrun.arm _).trans ?_
  simp only [hblock, hbase, hlist, hpsr, Bool.not_true, Bool.and_false, Bool.false_eq_true, if_false, if_true]
  rfl

/-- Settles O26: each way the SPSR cannot be restored is the violation of the whole instruction. -/
theorem blockReturnStops : Obligations.BlockReturnStops := by
  unfold Obligations.BlockReturnStops
  intro i s m o hrun hload hoperands hreturns
  obtain ⟨c, p, u, w, rn, list, rfl, hlist⟩ := blockLoad_returns hload hreturns
  have stops {v : Violation} (hpsr : s.returnPsr m = .error v) :=
    exec_ldm_of_returnPsr_error hrun hlist hoperands hpsr
  refine ⟨fun hm => stops (State.returnPsr_noSPSR hm), ?_, ?_⟩
  · rintro e rfl hdef
    exact stops (State.returnPsr_undefinedSPSR hdef)
  · rintro e rfl hdef hmode
    exact stops (State.returnPsr_illegalMode hdef hmode)

/-! ### The register file -/

/-- Settles O6, mode by mode. -/
theorem bankResolution : Obligations.BankResolution := by
  unfold Obligations.BankResolution
  refine ⟨?_, ?_, rfl, rfl, rfl, rfl, rfl, rfl, rfl, rfl, rfl, rfl, rfl, rfl, rfl, rfl, phys_pc⟩
  · intro m i
    simp [phys]
  · intro m i
    have hi := i.isLt
    simp [phys, show ¬ 8 + i.val < 8 by omega, show 8 + i.val < 13 by omega]

/-- Settles O7: the read after write of the register file. -/
theorem registerRetention : Obligations.RegisterRetention := State.getPhys_setPhys

/-! ### Power-on -/

@[simp] theorem Regs.get_zero (p : PhysReg) : Regs.zero.get p = 0#32 := by
  cases p with
  | low i => simp [Regs.get, Regs.zero]
  | mid i => simp [Regs.get, Regs.zero]
  | midFiq i => simp [Regs.get, Regs.zero]
  | sp b => cases b <;> rfl
  | lr b => cases b <;> rfl

/-- The step after construction is the Reset entry (R350). -/
theorem step_hostPowerOn (env : State) : step env.hostPowerOn = .next env.construct.takeReset.tick := rfl

/-- After the Reset entry of power-on every register is 0, R14_svc too, which holds the pc of construction (R45, R352). -/
theorem getPhys_powerOn (env : State) (p : PhysReg) : env.construct.takeReset.tick.getPhys p = 0#32 := by
  have hset : env.construct.takeReset.tick.getPhys p = (Regs.zero.set (.lr .svc) 0#32).get p := rfl
  rw [hset, Regs.get_set, Regs.get_zero, ite_self]

/-- After the Reset entry of power-on the core is in Supervisor mode with I and F set (R45). -/
theorem cpsr_powerOn (env : State) : env.construct.takeReset.tick.cpsr = 0x000000D3#32 :=
  show entryPsr 0x00000000#32 Mode.svc.bits true = 0x000000D3#32 by decide

/-- Settles O57: the step after construction is the Reset entry, evaluated field by field. -/
theorem powerOn : Obligations.PowerOn := by
  unfold Obligations.PowerOn
  refine ⟨fun env => ⟨_, step_hostPowerOn env, getPhys_powerOn env, ?_, cpsr_powerOn env, ?_, ?_, rfl, rfl, rfl, rfl, ?_, rfl⟩, 1, rfl⟩
  · exact BitVec.add_zero _
  · intro e; cases e <;> rfl
  · intro e; cases e <;> rfl
  · exact Nat.zero_add _

/-! ### Host accesses -/

/-- The host reads R`r` of a bank as it last wrote it, R15 as pc (R26, R27). -/
theorem State.hostReadBank_hostWriteBank (s : State) (m : Mode) (r : Reg) (v : Word) :
    (s.hostWriteBank m r v).hostReadBank m r = v := by
  unfold State.hostWriteBank State.hostReadBank State.regOr
  cases phys m r with
  | none => rfl
  | some p => simp

/-- The host reads an SPSR it has written as written, and any other as before (R26). -/
theorem State.hostReadSpsr_hostWriteSpsr (s : State) (e e' : ExcMode) (v : Word) :
    (s.hostWriteSpsr e v).hostReadSpsr e' = if e' = e then some v else s.hostReadSpsr e' := by
  have hfields : (s.hostWriteSpsr e v).hostReadSpsr e' =
      if (s.spsrDef.set e true).get e' then some ((s.spsr.set e v).get e') else none := rfl
  rw [hfields, Saved.get_set, Saved.get_set]
  split
  · rfl
  · rfl

/-- Settles O60: the reads after writes, and each access by its definition. -/
theorem hostAccess : Obligations.HostAccess := by
  unfold Obligations.HostAccess
  intro s m r e v
  refine ⟨s.hostReadBank_hostWriteBank m r v, fun p hp => ?_, ?_, fun hm => ?_, rfl, rfl, rfl, ?_, fun e' he => ?_,
    fun hundef => ?_, rfl, rfl, rfl⟩
  · simp only [State.hostWriteBank, hp]
  · rintro rfl
    simp only [State.hostWriteBank, (phys_eq_none_iff m 15).2 rfl]
    rfl
  · simp only [State.hostRead, State.hostWrite, hm, Option.map_some, and_self]
  · rw [State.hostReadSpsr_hostWriteSpsr, if_pos rfl]
  · rw [State.hostReadSpsr_hostWriteSpsr, if_neg he]
  · simp only [State.hostReadSpsr, hundef, Bool.false_eq_true, if_false]

end Sys2Proof.Machine
end

section
/-! PROOFS. The family of `20_memory.md`. Storage is read byte by byte: after a word write each byte of an access inside the word
is the word's. A single load or store is one equation: a violation where its access is not defined (R65), else the shared ending
of R191 to R198 over the answer of its one request. -/
namespace Sys2Proof.Machine

/-! ### Storage (R63) -/

theorem Memory.byteAt_add (mem : Memory) (a : Word) (j k : Nat) :
    mem.byteAt (a + BitVec.ofNat 32 j) k = mem.byteAt a (j + k) := by
  rw [Memory.byteAt, Memory.byteAt, BitVec.add_assoc, BitVec.ofNat_add]

/-- A word that is a multiple of 4 is its own word-aligned address. -/
theorem wordAligned_of_mod {a : Word} (ha : a.toNat % 4 = 0) : a &&& 0xFFFFFFFC#32 = a := by
  apply BitVec.eq_of_toNat_eq
  rw [wordAligned_toNat]
  omega

/-- After a word write each byte of the word is the word's, least significant at the lowest address. -/
theorem Memory.byteAt_writeBytes_word {mem : Memory} (hwf : mem.wf = true) {a : Word} (ha : a.toNat % 4 = 0) (v : Word)
    {k : Nat} (hk : k < 4) : (mem.writeBytes a (wordBytes v)).byteAt a k = v.extractLsb' (8 * k) 8 := by
  have hlt := a.isLt
  have hlength : (wordBytes v).length = 4 := rfl
  rw [Memory.byteAt, aligned_add_toNat a ha k hk, Memory.read_writeBytes (wordBytes v) mem a hwf (by omega),
    if_pos (by omega), Nat.add_sub_cancel_left]
  exact Width.word.bytesOf_getD v k hk

section
variable {mem : Memory} {a v : Word} (hbytes : ∀ k, k < 4 → mem.byteAt a k = v.extractLsb' (8 * k) 8)
include hbytes

/-- A halfword inside a word in storage is the word's. -/
theorem Memory.readHalf_of_bytes {h : Nat} (hh : h < 2) :
    mem.readHalf (a + BitVec.ofNat 32 (2 * h)) = v.extractLsb' (16 * h) 16 := by
  rw [Memory.readHalf, Memory.byteAt_add, Memory.byteAt_add, hbytes _ (by omega), hbytes _ (by omega)]
  have hhigh : 8 * (2 * h + 1) = 8 * (2 * h + 0) + 8 := by omega
  rw [BitVec.extractLsb'_append_extractLsb'_eq_extractLsb' hhigh, show 8 * (2 * h + 0) = 16 * h by omega]

/-- A word whose bytes are in storage is the word there. -/
theorem Memory.readWord_of_bytes : mem.readWord a = v := by
  apply BitVec.eq_of_getLsbD_eq
  intro k hk
  have hsplit : k = 8 * (k / 8) + k % 8 := by omega
  rw [hsplit, Memory.readWord_bit mem a (k / 8) (k % 8) (by omega) (by omega), hbytes _ (by omega),
    BitVec.getLsbD_extractLsb', decide_eq_true (by omega), Bool.true_and]

end

/-- A word write that storage takes leaves the word's bytes there, and does not move the windows. -/
theorem State.memWrite_word {s t : State} {a v : Word} (hwf : s.mem.wf = true) (ha : a.toNat % 4 = 0)
    (hdev : s.isDevice a = false) (h : s.memWrite a (wordBytes v) = some t) :
    t.isDevice a = false ∧ ∀ k, k < 4 → t.mem.byteAt a k = v.extractLsb' (8 * k) 8 := by
  obtain ⟨-, ⟨-, rfl⟩ | ⟨hdevice, -⟩⟩ := State.memWrite_some h
  · exact ⟨hdev, fun k hk => Memory.byteAt_writeBytes_word hwf ha v hk⟩
  · rw [hdev] at hdevice
    cases hdevice

/-- Settles O59: the laws of the byte list, and the bytes of a word write read back one, two and four at a time. -/
theorem storage : Obligations.Storage := by
  unfold Obligations.Storage
  refine ⟨fun mem n k v hwf hn => ⟨Memory.wf_write hwf hn v, Memory.read_write hwf hn v k⟩,
    fun mem mem' hwf hwf' => Memory.ext_of_read mem mem' 0 hwf hwf', fun s t a v hwf ha hdev h => ?_⟩
  obtain ⟨hstorage, hbytes⟩ := State.memWrite_word hwf ha hdev h
  refine ⟨fun k hk hanswers hdevice => ?_, fun fetch h hh hanswers hdevice => ?_, fun fetch hanswers => ?_⟩
  · rw [State.memReadByte, State.memRead_storage _ hanswers hdevice, Memory.byteAt_add]
    exact congrArg some (hbytes k hk)
  · rw [State.memReadHalf, State.memRead_storage _ hanswers hdevice, Memory.readHalf_of_bytes hbytes hh]
  · rw [State.memReadWord, State.memRead_storage _ hanswers hstorage, Memory.readWord_of_bytes hbytes]

/-! ### Defined accesses (R65) -/

/-- The test a meaning makes of the address before its access (R65). -/
def Width.refused (w : Width) (s : State) (a : Word) : Bool :=
  match w with
  | .word => s.wordRefused a
  | .half => a.getLsbD 0
  | .byte => false

theorem Width.refused_iff (w : Width) (s : State) (a : Word) : w.refused s a = true ↔ ¬ w.defined s a := by
  cases w with
  | byte => exact iff_of_false Bool.false_ne_true (not_not_intro trivial)
  | half => exact odd_iff a
  | word => exact s.wordRefused_iff a

/-- What a load does once the operands pass: the test of its address, then the access and the ending (R191 to R198). -/
def LoadOp.run (o : LoadOp) (m : Mode) (s : State) : Result :=
  if o.width.refused s o.ad.address then violation .unpredictable else finishLoad m o.rd o.ad (o.answer s) s

/-- What a store does once the operands pass: the test of its address, then the access and the ending (R192 to R196). -/
def StoreOp.run (o : StoreOp) (m : Mode) (s : State) : Result :=
  if o.width.refused s o.ad.address then violation .unpredictable
  else finishStore m o.ad (s.memWrite (o.width.request o.ad.address) (o.width.bytesOf o.value)) s

section
variable {m : Mode} {s : State}

theorem LoadOp.run_of_defined {o : LoadOp} (h : o.width.defined s o.ad.address) :
    o.run m s = finishLoad m o.rd o.ad (o.answer s) s :=
  if_neg fun hrefused => (o.width.refused_iff s _).1 hrefused h

theorem LoadOp.run_of_not_defined {o : LoadOp} (h : ¬ o.width.defined s o.ad.address) :
    o.run m s = .fault (.violation .unpredictable) :=
  if_pos ((o.width.refused_iff s _).2 h)

theorem StoreOp.run_of_defined {o : StoreOp} (h : o.width.defined s o.ad.address) :
    o.run m s = finishStore m o.ad (s.memWrite (o.width.request o.ad.address) (o.width.bytesOf o.value)) s :=
  if_neg fun hrefused => (o.width.refused_iff s _).1 hrefused h

theorem StoreOp.run_of_not_defined {o : StoreOp} (h : ¬ o.width.defined s o.ad.address) :
    o.run m s = .fault (.violation .unpredictable) :=
  if_pos ((o.width.refused_iff s _).2 h)

/-- STRH stores the low halfword, so its run is that of the halfword store. -/
theorem StoreOp.run_half (v : Word) (ad : Address) : StoreOp.run ⟨.half, v, ad⟩ m s = storeHalfFrom m v ad s := by
  rw [StoreOp.run, Width.bytesOf_half]
  rfl

/-! ### LDR relative to pc (R257) -/

theorem State.loadWord_of_aligned {a : Word} (ha : a.toNat % 4 = 0) : s.loadWord a = s.memReadWord false a := by
  have hrotate (w : Word) : w.rotateRight 0 = w := by
    apply BitVec.eq_of_getLsbD_eq
    intro k hk
    rw [rotateRight_bit w 0 k (by omega) hk, Nat.add_zero, Nat.mod_eq_of_lt hk]
  rw [State.loadWord, wordAligned_of_mod ha, low_two_toNat, ha]
  simp only [Nat.mul_zero, hrotate, Option.map_id']

/-- LDR at a word address passes the test of R65 and reads the word there. -/
theorem LoadOp.run_word_of_aligned {rd : Reg} {ad : Address} (ha : ad.address.toNat % 4 = 0) :
    LoadOp.run ⟨.word, false, rd, ad⟩ m s = finishLoad m rd ad (s.memReadWord false ad.address) s := by
  rw [← State.loadWord_of_aligned ha]
  exact LoadOp.run_of_defined (o := ⟨.word, false, rd, ad⟩) (Or.inr ha)

theorem low_two_eq_zero {a : Word} (hzero : a.getLsbD 0 = false) (hone : a.getLsbD 1 = false) :
    a.extractLsb' 0 2 = 0b00#2 := by
  ext k hk
  obtain rfl | rfl : k = 0 ∨ k = 1 := by omega
  · simpa using hzero
  · simpa using hone

/-- Format 6 reads at a word address, whichever halfword the instruction is at (R134). -/
theorem State.pcBase_add_mod (hpc : s.pc.toNat % 2 = 0) (word8 : BitVec 8) :
    (s.pcBase + (word8.setWidth 32 <<< 2)).toNat % 4 = 0 := by
  have heven : (s.pc + 4#32).getLsbD 0 = false := by
    refine Bool.eq_false_iff.2 fun hodd => (odd_iff _).1 hodd ?_
    rw [BitVec.toNat_add, BitVec.toNat_ofNat]
    omega
  have hbase : s.pcBase.extractLsb' 0 2 = 0b00#2 :=
    low_two_eq_zero (by simpa [State.pcBase] using heven) (by simp [State.pcBase])
  have hoffset : (word8.setWidth 32 <<< 2 : Word).extractLsb' 0 2 = 0b00#2 := low_two_eq_zero (by simp) (by simp)
  rw [← low_two_toNat, low_two_add _ _ hoffset, hbase]
  rfl

end

/-! ### Every single load and store as one equation -/

/-- An ARM instruction that runs and passes the test on its operands is what follows that test. -/
theorem Runs.arm_guarded {i : Instr} {s : State} {m : Mode} {v : Violation} {clash : Mode → Bool} {body : Mode → Result}
    (hrun : Runs i s m)
    (hexec : exec i s = armInstr i.condition s fun m => if clash m then violation v else body m)
    (hclash : ¬ clash m = true) : exec i s = body m :=
  hexec.trans ((hrun.arm _).trans (if_neg hclash))

/-- The order of the tests on the operands of a halfword form with a register offset does not matter. -/
theorem noClash_right_comm {a b c : Bool} (h : ¬ (a || b || c) = true) : ¬ (a || c || b) = true := by
  rwa [Bool.or_right_comm]

theorem badHalf_rd {b p w : Bool} {rd : Reg} (h : ¬ (b || badHalf p w rd) = true) : rd ≠ Reg.pc := by
  rintro rfl
  simp [badHalf] at h

/-- A single load whose operands section U leaves defined is the run of its row, and its write-back is not to R15. -/
theorem exec_load {i : Instr} {s : State} {m : Mode} {o : LoadOp} (hrun : Runs i s m) (hop : loadOp? s m i = some o)
    (hoperands : unpredictableOperands m i = false) : o.ad.Safe ∧ exec i s = o.run m s := by
  have hclash : ¬ unpredictableOperands m i = true := Bool.eq_false_iff.1 hoperands
  cases i with
  | ldrI => cases hop; exact ⟨indexedAddress_safe (noClash hclash), hrun.arm_guarded rfl hclash⟩
  | ldrR => cases hop; exact ⟨indexedAddress_safe (noClash_of_or hclash), hrun.arm_guarded rfl hclash⟩
  | ldrbI => cases hop; exact ⟨indexedAddress_safe (noClash_of_or hclash), hrun.arm_guarded rfl hclash⟩
  | ldrbR => cases hop; exact ⟨indexedAddress_safe (noClash_of_or_or hclash), hrun.arm_guarded rfl hclash⟩
  | ldrhI => cases hop; exact ⟨indexedAddress_safe (noClash_of_or hclash), hrun.arm_guarded rfl hclash⟩
  | ldrsbI => cases hop; exact ⟨indexedAddress_safe (noClash_of_or hclash), hrun.arm_guarded rfl hclash⟩
  | ldrshI => cases hop; exact ⟨indexedAddress_safe (noClash_of_or hclash), hrun.arm_guarded rfl hclash⟩
  | ldrhR => cases hop; exact ⟨indexedAddress_safe (noClash_of_or_or hclash), hrun.arm_guarded rfl (noClash_right_comm hclash)⟩
  | ldrsbR => cases hop; exact ⟨indexedAddress_safe (noClash_of_or_or hclash), hrun.arm_guarded rfl (noClash_right_comm hclash)⟩
  | ldrshR => cases hop; exact ⟨indexedAddress_safe (noClash_of_or_or hclash), hrun.arm_guarded rfl (noClash_right_comm hclash)⟩
  | tLdrPc rd word8 =>
    cases hop
    have haligned := State.pcBase_add_mod hrun.pc_mod word8
    exact ⟨Address.safe_plain _, (hrun.thumb _).trans (LoadOp.run_word_of_aligned (ad := .plain _) haligned).symm⟩
  | tLdrR => cases hop; exact ⟨Address.safe_plain _, hrun.thumb _⟩
  | tLdrbR => cases hop; exact ⟨Address.safe_plain _, hrun.thumb _⟩
  | tLdsbR => cases hop; exact ⟨Address.safe_plain _, hrun.thumb _⟩
  | tLdrhR => cases hop; exact ⟨Address.safe_plain _, hrun.thumb _⟩
  | tLdshR => cases hop; exact ⟨Address.safe_plain _, hrun.thumb _⟩
  | tLdrI => cases hop; exact ⟨Address.safe_plain _, hrun.thumb _⟩
  | tLdrbI => cases hop; exact ⟨Address.safe_plain _, hrun.thumb _⟩
  | tLdrhI => cases hop; exact ⟨Address.safe_plain _, hrun.thumb _⟩
  | tLdrSp => cases hop; exact ⟨Address.safe_plain _, hrun.thumb _⟩
  | _ => cases hop

/-- A single store whose operands section U leaves defined is the run of its row, and its write-back is not to R15. -/
theorem exec_store {i : Instr} {s : State} {m : Mode} {o : StoreOp} (hrun : Runs i s m) (hop : storeOp? s m i = some o)
    (hoperands : unpredictableOperands m i = false) : o.ad.Safe ∧ exec i s = o.run m s := by
  have hclash : ¬ unpredictableOperands m i = true := Bool.eq_false_iff.1 hoperands
  cases i with
  | strI => cases hop; exact ⟨indexedAddress_safe (noClash hclash), hrun.arm_guarded rfl hclash⟩
  | strR => cases hop; exact ⟨indexedAddress_safe (noClash_of_or hclash), hrun.arm_guarded rfl hclash⟩
  | strbI => cases hop; exact ⟨indexedAddress_safe (noClash_of_or hclash), hrun.arm_guarded rfl hclash⟩
  | strbR => cases hop; exact ⟨indexedAddress_safe (noClash_of_or_or hclash), hrun.arm_guarded rfl hclash⟩
  | strhI =>
    cases hop
    rw [StoreOp.run_half, State.xLate_eq_x (badHalf_rd hclash)]
    exact ⟨indexedAddress_safe (noClash_of_or hclash), hrun.arm_guarded rfl hclash⟩
  | strhR =>
    cases hop
    rw [StoreOp.run_half, State.xLate_eq_x (badHalf_rd hclash)]
    exact ⟨indexedAddress_safe (noClash_of_or_or hclash), hrun.arm_guarded rfl (noClash_right_comm hclash)⟩
  | tStrR => cases hop; exact ⟨Address.safe_plain _, hrun.thumb _⟩
  | tStrbR => cases hop; exact ⟨Address.safe_plain _, hrun.thumb _⟩
  | tStrhR => cases hop; rw [StoreOp.run_half]; exact ⟨Address.safe_plain _, hrun.thumb _⟩
  | tStrI => cases hop; exact ⟨Address.safe_plain _, hrun.thumb _⟩
  | tStrbI => cases hop; exact ⟨Address.safe_plain _, hrun.thumb _⟩
  | tStrhI => cases hop; rw [StoreOp.run_half]; exact ⟨Address.safe_plain _, hrun.thumb _⟩
  | tStrSp => cases hop; exact ⟨Address.safe_plain _, hrun.thumb _⟩
  | _ => cases hop

/-- Settles O20: an access that is not defined fails the test before it; SWP makes that test with the one on its operands, and
both answers are the same violation. -/
theorem misalignedAccess : Obligations.MisalignedAccess := by
  unfold Obligations.MisalignedAccess
  refine ⟨fun i s m o hrun hop hoperands hdefined => ?_, fun i s m o hrun hop hoperands hdefined => ?_,
    fun c rn rd rm s m hrun hdefined => ?_⟩
  · exact (exec_load hrun hop hoperands).2.trans (LoadOp.run_of_not_defined hdefined)
  · exact (exec_store hrun hop hoperands).2.trans (StoreOp.run_of_not_defined hdefined)
  · have hrefused : s.wordRefused (s.x m rn) = true := (s.wordRefused_iff _).2 hdefined
    exact (hrun.arm _).trans (if_pos (by rw [hrefused, Bool.or_true]))

/-! ### Requests that answer Fault (R75, R210) -/

/-- After its write-back alone a single transfer takes DataAbort, from the instruction's own address (R210, R314). -/
theorem dataAbort_after_writeBack {ad : Address} {m : Mode} {s : State} {r : Result} (hsafe : ad.Safe)
    (hr : r = .next ((s.applyWriteBack m ad).raise .dataAbort s.pc)) :
    ∃ u t, r = .next t ∧ ad.WrittenBack m u ∧ u.pc = s.pc ∧ u.cpsr = s.cpsr ∧ Keeps (ad.written m) [] s u ∧
      Entered .dataAbort (s.pc + 8#32) u t := by
  obtain ⟨hbase, hregs, hrest⟩ := State.applyWriteBack_spec m hsafe s
  have hbody : Body s (s.applyWriteBack m ad) := Body.applyWriteBack hsafe
  have hkeeps : Keeps (ad.written m) [] s (s.applyWriteBack m ad) := Keeps.of_regs _ hregs (by rw [hrest])
  exact ⟨_, _, hr, hbase, hbody.pc, hbody.cpsr, hkeeps, entered_raise .dataAbort _ s.pc⟩

/-- Settles O24: on Fault both endings are the write-back and the entry. -/
theorem singleTransferAborts : Obligations.SingleTransferAborts := by
  unfold Obligations.SingleTransferAborts
  refine ⟨fun i s m o hrun hop hoperands hdefined hfault => ?_, fun i s m o hrun hop hoperands hdefined hfault => ?_⟩
  · obtain ⟨hsafe, hexec⟩ := exec_load hrun hop hoperands
    rw [LoadOp.run_of_defined hdefined, LoadOp.answer_absent o s hfault] at hexec
    exact dataAbort_after_writeBack hsafe hexec
  · obtain ⟨hsafe, hexec⟩ := exec_store hrun hop hoperands
    rw [StoreOp.run_of_defined hdefined, State.memWrite_none.2 hfault] at hexec
    exact dataAbort_after_writeBack hsafe hexec

end Sys2Proof.Machine
end

section
/-! PROOFS. The family of `30_encoding.md`. A row that answers the decoder matches, so decoder and encoder agree in both
directions at once (`decode_eq_ok_iff`); each operand combination of section U is the test its meaning makes first. -/
namespace Sys2Proof

/-! ### Decoder and encoder agree -/

theorem Instr.wellFormed_iff (extras : Bool) (i : Instr) :
    i.wellFormed extras = true ↔ (i.needsExtras && !extras) = false := by
  unfold Instr.wellFormed
  cases extras <;> cases i.needsExtras <;> decide

/-- What the search for a matching row finds is a row that matches. -/
theorem row_of_find {α : Type} {n : Nat} {mask bits : α → BitVec n} {rows : List α} {w : BitVec n} {r : α}
    (h : rows.find? (fun a => w &&& mask a == bits a) = some r) : r ∈ rows ∧ w &&& mask r = bits r :=
  ⟨List.mem_of_find?_eq_some h, by simpa using List.find?_some h⟩

/-- A word decodes by a row that matches it and that the parameter admits (R110). -/
theorem row_of_decodeArm {extras : Bool} {w : Word} {i : Instr} (h : decodeArm extras w = .ok i) :
    ∃ r ∈ armRows, w &&& r.mask = r.bits ∧ (r.extras && !extras) = false ∧ r.build w = i := by
  unfold decodeArm at h
  split at h
  · cases h
  next r hfind =>
    obtain ⟨hr, hmatch⟩ := row_of_find hfind
    split at h
    · cases h
    next hadmitted => exact ⟨r, hr, hmatch, Bool.eq_false_iff.2 hadmitted, Except.ok.inj h⟩

/-- A halfword decodes by a row that matches it and that the parameter admits (R113, R250). -/
theorem row_of_decodeThumb {extras : Bool} {c : Half} {i : Instr} (h : decodeThumb extras c = .ok i) :
    ∃ r ∈ thumbRows, c &&& r.mask = r.bits ∧ (r.extras && !extras) = false ∧ r.build c = i := by
  unfold decodeThumb at h
  split at h
  · cases h
  next r hfind =>
    obtain ⟨hr, hmatch⟩ := row_of_find hfind
    split at h
    · cases h
    next hadmitted => exact ⟨r, hr, hmatch, Bool.eq_false_iff.2 hadmitted, Except.ok.inj h⟩

/-- Bits decode to an instruction exactly when they are its encoding and it is well-formed. -/
theorem decode_eq_ok_iff {extras : Bool} {code : Code} {i : Instr} :
    decode extras code = .ok i ↔ encode i = code ∧ i.wellFormed extras = true := by
  rw [Instr.wellFormed_iff]
  constructor
  · intro h
    cases code with
    | arm w =>
      obtain ⟨r, hr, hmatch, hadmitted, rfl⟩ := row_of_decodeArm h
      exact ⟨encode_build_arm hr hmatch, (build_arm r hr w).2 ▸ hadmitted⟩
    | thumb c =>
      obtain ⟨r, hr, hmatch, hadmitted, rfl⟩ := row_of_decodeThumb h
      exact ⟨encode_build_thumb hr hmatch, (build_thumb r hr c).2 ▸ hadmitted⟩
  · rintro ⟨rfl, hadmitted⟩
    rw [decode_encode, hadmitted]
    rfl

/-- Settles O3: the agreement of decoder and encoder, at the instruction's own bits. -/
theorem decodeOfEncode : Obligations.DecodeOfEncode := by
  unfold Obligations.DecodeOfEncode
  exact fun _ _ hwf => decode_eq_ok_iff.2 ⟨rfl, hwf⟩

/-- Settles O4: the agreement of decoder and encoder, at bits that decode. -/
theorem encodeOfDecode : Obligations.EncodeOfDecode := by
  unfold Obligations.EncodeOfDecode
  exact fun _ _ _ h => decode_eq_ok_iff.1 h

/-- Settles O1: each of the fourteen instructions encodes to its word. -/
theorem sampleWords : Obligations.SampleWords := by
  unfold Obligations.SampleWords
  simp only [decode_eq_ok_iff]
  decide

/-- Settles O2: two rows that match one word agree on the bits both fix, and no two rows of the table do. -/
theorem rowsDisjoint : Obligations.RowsDisjoint := by
  unfold Obligations.RowsDisjoint
  exact ⟨armRows_disagree.imp fun hbits _ hmatch => hbits (bits_agree_of_match hmatch.1 hmatch.2),
    thumbRows_disagree.imp fun hbits _ hmatch => hbits (bits_agree_of_match hmatch.1 hmatch.2)⟩

namespace Machine

/-! ### Conditions and the rotated immediate -/

/-- Settles O9: the Boolean expression of each condition, read as a proposition. -/
theorem conditionTable : Obligations.ConditionTable := by
  unfold Obligations.ConditionTable
  intro p
  simp only [condPassed, Bool.and_eq_true, Bool.or_eq_true, Bool.not_eq_true', beq_iff_eq, bne_iff_ne, and_self]

/-- A bit of the immediate operand: the rotation brings it from bit `k + 2 * rot`, modulo 32, of the 8-bit immediate (R95). -/
theorem shifterImm_bit (rot : BitVec 4) (imm8 : BitVec 8) (c : Bool) {k : Nat} (hk : k < 32) :
    (shifterImm rot imm8 c).value.getLsbD k =
      (decide ((k + 2 * rot.toNat) % 32 < 8) && imm8.getLsbD ((k + 2 * rot.toNat) % 32)) := by
  have hrot := rot.isLt
  have hvalue : (shifterImm rot imm8 c).value = (imm8.setWidth 32 : Word).rotateRight (2 * rot.toNat) := rfl
  rw [hvalue, rotateRight_bit _ _ _ (by omega) hk, BitVec.getLsbD_setWidth, decide_eq_true (Nat.mod_lt _ (by omega)),
    Bool.true_and]
  by_cases hbyte : (k + 2 * rot.toNat) % 32 < 8
  · rw [decide_eq_true hbyte, Bool.true_and]
  · rw [decide_eq_false hbyte, Bool.false_and, BitVec.getLsbD_of_ge _ _ (by omega)]

/-- Settles O11: the bits of the operand, and the two branches of its carry. -/
theorem rotatedImmediate : Obligations.RotatedImmediate := by
  unfold Obligations.RotatedImmediate
  exact fun rot imm8 c => ⟨fun k hk => shifterImm_bit rot imm8 c hk, fun hrot => if_pos hrot, fun hrot => if_neg hrot⟩

/-! ### The undefined spaces -/

/-- The UndefinedInstruction entry returns past the instruction that takes it (R305, R306). -/
theorem Runs.entered_undefined {i : Instr} {s : State} {m : Mode} (hrun : Runs i s m) :
    Entered .undefinedInstruction (s.pc + i.size) s (s.raise .undefinedInstruction s.pc) := by
  have hentry := entered_raise .undefinedInstruction s s.pc
  rwa [show s.returnAddress .undefinedInstruction s.pc = s.pc + s.isz from rfl, hrun.isz_eq] at hentry

/-- Settles O39: in either state the meaning is that entry. -/
theorem undefinedSpace : Obligations.UndefinedSpace := by
  unfold Obligations.UndefinedSpace
  intro i s m hrun hspace
  refine ⟨_, ?_, hrun.entered_undefined⟩
  obtain ⟨c, hi, lo, rfl⟩ | ⟨imm8, rfl⟩ := hspace
  · exact hrun.arm _
  · exact hrun.thumb _

/-! ### Operand combinations that stop (R112, section U) -/

theorem userBankClash_eq (m : Mode) (w : Bool) : userBankClash m w = (w || m == .usr || m == .sys) := by
  rw [userBankClash, Bool.or_assoc]
  cases m <;> rfl

theorem contains_listRegs (list : BitVec 16) (rn : Reg) : (listRegs list).contains rn = list.getLsbD rn.val :=
  Bool.eq_iff_iff.2 (List.contains_iff_mem.trans mem_listRegs)

/-- Lists ascend, so a listed register with a lower one listed is not the first (R202). -/
theorem storeBaseClash_of_lowerListed {list : BitVec 16} {rn : Reg} (hrn : list.getLsbD rn.val = true)
    (hlower : lowerListed list rn = true) : storeBaseClash (listRegs list) rn = true := by
  have hhead : (listRegs list).head? ≠ some rn := by
    intro hhead
    obtain ⟨r, -, hr⟩ := List.any_eq_true.1 hlower
    obtain ⟨hlt, hlisted⟩ : r < rn ∧ list.getLsbD r.val = true := by simpa using hr
    obtain ⟨rest, hlist⟩ := List.head?_eq_some_iff.1 hhead
    have hascending := listRegs_ascending list
    rw [hlist, List.pairwise_cons] at hascending
    have hmem : r ∈ rn :: rest := hlist ▸ mem_listRegs.2 hlisted
    rcases List.mem_cons.1 hmem with rfl | hrest
    · exact Fin.lt_irrefl _ hlt
    · exact Fin.lt_asymm hlt (hascending.1 r hrest)
  rw [storeBaseClash, contains_listRegs, hrn, Bool.true_and, bne_iff_ne]
  exact hhead

/-- Without R14 or R15 an empty 8-bit list names no register (R265, U11). -/
theorem lowListRegs_isEmpty {r : Bool} {rlist : BitVec 8} {extra : Reg} (h : (!r && rlist == 0x00#8) = true) :
    (lowListRegs rlist (if r then some extra else none)).isEmpty = true := by
  obtain ⟨rfl, rfl⟩ : r = false ∧ rlist = 0x00#8 := by simpa using h
  rfl

theorem bothLow_eq (rd rs : Reg) : bothLow rd rs = (decide (rs < 8) && decide (rd < 8)) := Bool.and_comm _ _

/-- MLA tests its accumulator last (R180, R182, U5). -/
theorem mlaClash_eq (rd rn rs rm : Reg) : (mulClash rd rs rm || rn == Reg.pc) =
    (rd == Reg.pc || rn == Reg.pc || rs == Reg.pc || rm == Reg.pc || rd == rm) := by
  rw [mulClash, Bool.or_right_comm _ (rd == rm), Bool.or_right_comm _ (rm == Reg.pc), Bool.or_right_comm _ (rs == Reg.pc)]

/-- LDM stops at its first test where the list or Rn is bad, else at the test of its form (R201, R203, U11). -/
theorem exec_ldm_stops {c : Cond} {p u hat w : Bool} {rn : Reg} {list : BitVec 16} {s : State} {m : Mode}
    (hrun : Runs (.ldm c p u hat w rn list) s m) (h : unpredictableOperands m (.ldm c p u hat w rn list) = true) :
    exec (.ldm c p u hat w rn list) s = .fault (.violation .unpredictable) := by
  refine (hrun.arm _).trans ?_
  by_cases hblock : blockClash list rn = true
  · exact if_pos hblock
  have hform := (Bool.or_eq_true_iff.1 h).resolve_left hblock
  refine (if_neg hblock).trans ?_
  by_cases huser : (hat && !list.getLsbD 15) = true
  · rw [if_pos huser, ← userBankClash_eq] at hform
    exact (if_pos huser).trans (if_pos hform)
  · rw [if_neg huser, ← contains_listRegs] at hform
    exact (if_neg huser).trans (if_pos hform)

/-- STM stops at its first test where the list or Rn is bad, else at the test of its form (R201, R204, U11). -/
theorem exec_stm_stops {c : Cond} {p u hat w : Bool} {rn : Reg} {list : BitVec 16} {s : State} {m : Mode}
    (hrun : Runs (.stm c p u hat w rn list) s m) (h : unpredictableOperands m (.stm c p u hat w rn list) = true) :
    exec (.stm c p u hat w rn list) s = .fault (.violation .unpredictable) := by
  refine (hrun.arm _).trans ?_
  by_cases hblock : blockClash list rn = true
  · exact if_pos hblock
  have hform := (Bool.or_eq_true_iff.1 h).resolve_left hblock
  refine (if_neg hblock).trans ?_
  by_cases huser : hat = true
  · rw [if_pos huser, ← userBankClash_eq] at hform
    exact (if_pos huser).trans (if_pos hform)
  · rw [if_neg huser, Bool.and_eq_true_iff, Bool.and_eq_true_iff] at hform
    obtain ⟨⟨hw, hrn⟩, hlower⟩ := hform
    refine (if_neg huser).trans (if_pos ?_)
    rw [hw, storeBaseClash_of_lowerListed hrn hlower]
    rfl

/-- THUMB STMIA stops at its one test, on an empty list or on a listed base that is not the lowest (R266, U11). -/
theorem exec_tStmia_stops {rb : LowReg} {rlist : BitVec 8} {s : State} {m : Mode} (hrun : Runs (.tStmia rb rlist) s m)
    (h : unpredictableOperands m (.tStmia rb rlist) = true) :
    exec (.tStmia rb rlist) s = .fault (.violation .unpredictable) := by
  refine (hrun.thumb _).trans (if_pos ?_)
  rcases Bool.or_eq_true_iff.1 h with hempty | hbase
  · rw [eq_of_beq hempty]
    rfl
  · obtain ⟨hrb, hlower⟩ := Bool.and_eq_true_iff.1 hbase
    have hlisted : (rlist.setWidth 16).getLsbD (loReg rb).val = true := by
      rw [BitVec.getLsbD_setWidth, show (loReg rb).val = rb.val from rfl, hrb, decide_eq_true (by omega)]
      rfl
    rw [lowListRegs, Option.toList_none, List.append_nil, storeBaseClash_of_lowerListed hlisted hlower, Bool.or_true]

/-- Settles O19: the first test of each meaning is the combination section U names, up to the order of its parts; the block
transfers are the lemmas above. -/
theorem unpredictableOperands_stop : Obligations.UnpredictableOperands := by
  unfold Obligations.UnpredictableOperands
  intro i s m hrun h
  cases i with
  -- R151, U4
  | andS | eorS | subS | rsbS | addS | adcS | sbcS | rscS | orrS | movS | bicS | mvnS => exact (hrun.arm _).trans (if_pos h)
  | tstS | teqS | cmpS | cmnS => exact (hrun.arm _).trans (if_pos (eq_of_beq h))
  -- U5
  | mul | umull | umlal | smull | smlal => exact (hrun.arm _).trans (if_pos h)
  | mla c sf rd rn rs rm =>
    exact (hrun.arm _).trans (if_pos ((mlaClash_eq rd rn rs rm).trans h))
  | tMul => exact (hrun.thumb _).trans (if_pos (eq_of_beq h).symm)
  -- U6
  | ldrI | ldrR | ldrbI | ldrbR | strI | strR | strbI | strbR => exact (hrun.arm _).trans (if_pos h)
  | ldrhI | ldrsbI | ldrshI | strhI => exact (hrun.arm _).trans (if_pos h)
  | ldrhR | ldrsbR | ldrshR | strhR => exact (hrun.arm _).trans (if_pos ((Bool.or_right_comm _ _ _).trans h))
  -- U7, U14
  | bx | mrs | msrR => exact (hrun.arm _).trans (if_pos (eq_of_beq h))
  -- U8
  | ldc | stc => exact (hrun.arm _).trans (if_pos h)
  -- U10
  | tAddHi | tMovHi => exact (hrun.thumb _).trans (if_pos ((bothLow_eq _ _).trans h))
  | tCmpHi => exact (hrun.thumb _).trans (if_pos (by rw [bothLow_eq]; exact h))
  -- U11
  | ldm => exact exec_ldm_stops hrun h
  | stm => exact exec_stm_stops hrun h
  | tPush | tPop => exact (hrun.thumb _).trans (if_pos (lowListRegs_isEmpty h))
  | tLdmia => exact (hrun.thumb _).trans (if_pos (by rw [eq_of_beq h]; rfl))
  | tStmia => exact exec_tStmia_stops hrun h
  -- U13
  | swp => exact (hrun.arm _).trans (if_pos (Bool.or_eq_true_iff.2 (.inl h)))
  | swpb => exact (hrun.arm _).trans (if_pos h)
  -- section U names no operands of the rest
  | _ => cases h

end Machine
end Sys2Proof
end

section
/-! PROOFS. The family of `40_step_cycle.md`. Each test of R130 is one equation of `State.cycle`, and what follows the tests is
`State.runFetched`; what an ARM instruction does when its condition fails is said once for all of them (`exec_eq_armInstr`). -/
namespace Sys2Proof.Machine

variable {i : Instr} {s : State} {m : Mode} {code : Code}

/-! ### A condition that fails (R133) -/

/-- Every ARM instruction is a body behind the test of its condition field. -/
theorem exec_eq_armInstr (hi : i.isThumb = false) (s : State) : ∃ body, exec i s = armInstr i.condition s body := by
  cases i with
  -- R154 to R169
  | andI | andR | andS | eorI | eorR | eorS | subI | subR | subS | rsbI | rsbR | rsbS => exact ⟨_, rfl⟩
  | addI | addR | addS | adcI | adcR | adcS | sbcI | sbcR | sbcS | rscI | rscR | rscS => exact ⟨_, rfl⟩
  | tstI | tstR | tstS | teqI | teqR | teqS | cmpI | cmpR | cmpS | cmnI | cmnR | cmnS => exact ⟨_, rfl⟩
  | orrI | orrR | orrS | movI | movR | movS | bicI | bicR | bicS | mvnI | mvnR | mvnS => exact ⟨_, rfl⟩
  -- R181 to R187
  | mul | mla | umull | umlal | smull | smlal => exact ⟨_, rfl⟩
  -- R190 to R210
  | ldrI | ldrR | ldrbI | ldrbR | strI | strR | strbI | strbR => exact ⟨_, rfl⟩
  | ldrhI | ldrhR | ldrsbI | ldrsbR | ldrshI | ldrshR | strhI | strhR => exact ⟨_, rfl⟩
  | ldm | stm | swp | swpb => exact ⟨_, rfl⟩
  -- R220 to R222, R230 to R233, R103
  | b | bl | bx | mrs | msrR | msrI | swi | undefined => exact ⟨_, rfl⟩
  -- R242 to R246
  | cdp | mcr | mrc | ldc | stc => exact ⟨_, rfl⟩
  -- the rest is of THUMB state
  | _ => cases hi

theorem armInstr_of_condition_fails {c : Cond} (hm : s.mode? = some m) (hc : condPassed c s.cpsr = false)
    (body : Mode → Result) : armInstr c s body = .next s.advance := by
  simp [armInstr, hm, hc]

theorem State.advance_arm (hT : psrT s.cpsr = false) : s.advance = { s with pc := s.pc + 4#32 } := by
  simp [State.advance, State.setPc, State.isz, hT]

/-- Settles O10: behind the test that fails is the advance alone. -/
theorem conditionFails : Obligations.ConditionFails := by
  unfold Obligations.ConditionFails
  intro i s m hm hT hi hc
  obtain ⟨body, hexec⟩ := exec_eq_armInstr hi s
  rw [hexec, armInstr_of_condition_fails hm hc, State.advance_arm hT]

/-! ### The fetch and what follows it (R132) -/

/-- A fetch fails exactly when its one read request is not answered. -/
theorem State.fetch_eq_none : s.fetch = none ↔ s.answers true s.pc = false := by
  unfold State.fetch
  split
  · rw [Option.map_eq_none_iff, State.memReadHalf_none]
  · rw [Option.map_eq_none_iff, State.memReadWord_none]

theorem State.runFetched_of_abort (hf : s.answers true s.pc = false) :
    s.runFetched = .next (s.raise .prefetchAbort s.pc) := by
  rw [State.runFetched, State.fetch_eq_none.2 hf]

theorem State.runFetched_of_decode (hfetch : s.fetch = some code) (hdecode : decode s.params.v4tExtras code = .ok i) :
    s.runFetched = exec i s := by
  simp only [State.runFetched, hfetch, hdecode]

theorem State.runFetched_of_noDecode {e : DecodeError} (hfetch : s.fetch = some code)
    (hdecode : decode s.params.v4tExtras code = .error e) : s.runFetched = violation .noMatchingOpcode := by
  simp only [State.runFetched, hfetch, hdecode]

theorem exec_next_or_violation (i : Instr) (s : State) : (∃ t, exec i s = .next t) ∨ ∃ v, exec i s = violation v := by
  have hgood := exec_good i s
  cases hexec : exec i s with
  | next t => exact .inl ⟨t, rfl⟩
  | fault f =>
    cases f with
    | violation v => exact .inr ⟨v, rfl⟩
    | halted v => rw [hexec] at hgood; exact hgood.elim
  | refused r => exact absurd hexec (exec_ne_refused i s r)

theorem State.runFetched_next_or_violation (s : State) :
    (∃ t, s.runFetched = .next t) ∨ ∃ v, s.runFetched = violation v := by
  cases hfetch : s.fetch with
  | none => exact .inl ⟨_, State.runFetched_of_abort (State.fetch_eq_none.1 hfetch)⟩
  | some code =>
    cases hdecode : decode s.params.v4tExtras code with
    | error e => exact .inr ⟨_, State.runFetched_of_noDecode hfetch hdecode⟩
    | ok i => rw [State.runFetched_of_decode hfetch hdecode]; exact exec_next_or_violation i s

/-- Settles O50: after the tests of the boundary the step is what follows the fetch, whose bytes are those of storage unless a
device answers. -/
theorem fetchOutcomes : Obligations.FetchOutcomes := by
  unfold Obligations.FetchOutcomes
  intro s hs hrunning hreset hfiq hirq
  rw [step_of_boundary hs hrunning hreset hfiq hirq]
  refine ⟨fun habort => ?_, fun e hanswers hdevice hbytes => ?_, fun _ _ => ?_⟩
  · rw [State.runFetched_of_abort habort]
    rfl
  · obtain ⟨code, hfetch, hcode⟩ := State.fetch_bytes hs hanswers hdevice
    rw [hcode] at hbytes
    cases hdecode : decode s.params.v4tExtras code with
    | error e' => rw [State.runFetched_of_noDecode hfetch hdecode]; rfl
    | ok i => rw [hdecode] at hbytes; cases hbytes
  · rcases State.runFetched_next_or_violation s with ⟨t, hnext⟩ | ⟨v, hviolation⟩
    · exact .inl ⟨t.tick, by rw [hnext]; rfl⟩
    · exact .inr ⟨v, by rw [hviolation]; rfl⟩

/-- Settles O48: the instruction is what the bytes of storage at pc decode to, and a step adds the tick to its next state. -/
theorem stepRunsDecoded : Obligations.StepRunsDecoded := by
  unfold Obligations.StepRunsDecoded
  intro s i hs hrunning hreset hfiq hirq hanswers hdevice hbytes
  obtain ⟨code, hfetch, hcode⟩ := State.fetch_bytes hs hanswers hdevice
  have hdecode : decode s.params.v4tExtras code = .ok i := by
    rw [hcode] at hbytes
    cases hd : decode s.params.v4tExtras code with
    | error e => rw [hd] at hbytes; cases hbytes
    | ok j => rw [hd] at hbytes; cases hbytes; rfl
  have hstep : step s = tickResult (exec i s) := by
    rw [step_of_boundary hs hrunning hreset hfiq hirq, State.runFetched_of_decode hfetch hdecode]
  refine ⟨fun t hnext => ?_, fun f hfault => ?_⟩
  · rw [hstep, hnext]
    rfl
  · rw [hstep, hfault]
    rfl

/-! ### The boundary (R130, R302) -/

/-- A core that is not halted runs one cycle and ticks (R40, R130). -/
theorem step_of_running (h : s.halted = none) : step s = tickResult s.cycle := by
  simp only [step, h]

theorem State.cycle_of_reset (hreset : s.resetPending = true) : s.cycle = .next s.takeReset := if_pos hreset

theorem State.cycle_of_illegalMode (hreset : s.resetPending = false) (hm : s.mode? = none) :
    s.cycle = violation .illegalMode := by
  simp [State.cycle, hreset, hm]

theorem State.cycle_of_misalignedPC (hreset : s.resetPending = false) (hm : s.mode? ≠ none) (hpc : s.pcAligned = false) :
    s.cycle = violation .misalignedPC := by
  simp [State.cycle, hreset, hm, hpc]

theorem State.cycle_of_fiq (hreset : s.resetPending = false) (hm : s.mode? ≠ none) (hpc : s.pcAligned = true)
    (hfiq : s.fiqPending = true) (hF : psrF s.cpsr = false) : s.cycle = .next s.takeFiq := by
  simp [State.cycle, hreset, hm, hpc, hfiq, hF]

theorem State.cycle_of_irq (hreset : s.resetPending = false) (hm : s.mode? ≠ none) (hpc : s.pcAligned = true)
    (hnoFiq : s.fiqPending = false ∨ psrF s.cpsr = true) (hirq : s.irqPending = true) (hI : psrI s.cpsr = false) :
    s.cycle = .next s.takeIrq := by
  have hmasked : (s.fiqPending && !psrF s.cpsr) = false := by rwa [Bool.and_eq_false_iff, Bool.not_eq_false']
  simp [State.cycle, hreset, hm, hpc, hmasked, hirq, hI]

/-- Settles O49: the tests of the cycle in their order, each followed by the tick or ending the step. -/
theorem boundaryOrder : Obligations.BoundaryOrder := by
  unfold Obligations.BoundaryOrder
  intro s hrunning
  rw [step_of_running hrunning]
  refine ⟨fun hreset => ?_, fun hreset hm => ?_, fun hreset hm hpc => ?_, fun hreset hm hpc hfiq hF => ?_,
    fun hreset hm hpc hnoFiq hirq hI => ?_⟩
  · rw [State.cycle_of_reset hreset]
    rfl
  · rw [State.cycle_of_illegalMode hreset hm]
    rfl
  · rw [State.cycle_of_misalignedPC hreset hm hpc]
    rfl
  · rw [State.cycle_of_fiq hreset hm hpc hfiq hF]
    rfl
  · rw [State.cycle_of_irq hreset hm hpc hnoFiq hirq hI]
    rfl

/-! ### What an instruction reads from R15 (R134) -/

theorem State.x_pc (s : State) (m : Mode) : s.x m Reg.pc = s.pcOperand := by
  rw [State.x, State.regOr, phys_pc]

theorem State.xLate_pc (s : State) (m : Mode) : s.xLate m Reg.pc = s.pc + 12#32 := by
  rw [State.xLate, State.regOr, phys_pc]

theorem State.pcOperand_arm (hT : psrT s.cpsr = false) : s.pcOperand = s.pc + 8#32 := by
  simp [State.pcOperand, hT]

theorem State.pcOperand_thumb (hT : psrT s.cpsr = true) : s.pcOperand = s.pc + 4#32 := if_pos hT

/-- Settles O8: R15 by the state bit, every other register by its bank. -/
theorem pcOperand : Obligations.PcOperand := by
  unfold Obligations.PcOperand
  intro s m
  exact ⟨fun hT => ⟨(s.x_pc m).trans (State.pcOperand_arm hT), s.xLate_pc m⟩,
    fun hT => ⟨(s.x_pc m).trans (State.pcOperand_thumb hT), rfl⟩,
    fun r p hp => ⟨State.x_some hp, State.xLate_some hp⟩⟩

end Sys2Proof.Machine
end

section
/-! PROOFS. The family of `41_data_processing.md`. Each row of the shifter's tables is an equation between words and numbers.
Every instruction of the table of computations, of either state, ends in the same way (`exec_eq_finish`), and what that ending
leaves is said once for all of them. -/
namespace Sys2Proof.Machine

/-! ### The shifter in numbers (R151) -/

theorem shiftLeft_eq_ofNat (v : Word) (n : Nat) : v <<< n = BitVec.ofNat 32 (v.toNat * 2 ^ n) := by
  rw [← Nat.shiftLeft_eq]
  exact BitVec.eq_of_toNat_eq BitVec.toNat_shiftLeft

theorem ushiftRight_eq_ofNat (v : Word) (n : Nat) : v >>> n = BitVec.ofNat 32 (v.toNat / 2 ^ n) := by
  rw [← Nat.shiftRight_eq_div_pow, ← BitVec.toNat_ushiftRight, BitVec.ofNat_toNat, BitVec.setWidth_eq]

theorem sshiftRight_eq_ofInt (v : Word) (n : Nat) : v.sshiftRight n = BitVec.ofInt 32 (v.toInt / 2 ^ n) := by
  rw [BitVec.sshiftRight, Int.shiftRight_eq_div_pow]
  norm_cast

/-- The two halves of a rotation have no bit in common, so their union is their sum. -/
theorem rotateRight_eq_ofNat (v : Word) {n : Nat} (hn : n < 32) :
    v.rotateRight n = BitVec.ofNat 32 (v.toNat / 2 ^ n + v.toNat * 2 ^ (32 - n)) := by
  have hdisjoint : v >>> n &&& v <<< (32 - n) = 0#32 := by
    ext k hk
    rw [BitVec.getElem_and, BitVec.getElem_ushiftRight, BitVec.getElem_shiftLeft]
    by_cases hlow : k < 32 - n
    · simp [hlow]
    · simp [BitVec.getLsbD_of_ge v (n + k) (by omega)]
  rw [BitVec.rotateRight_def, Nat.mod_eq_of_lt hn, ← BitVec.add_eq_or_of_and_eq_zero _ _ hdisjoint,
    ushiftRight_eq_ofNat, shiftLeft_eq_ofNat, BitVec.ofNat_add]

/-- RRX: C enters at the top (R151). -/
theorem rotateThroughCarry_eq_ofNat (v : Word) (c : Bool) :
    BitVec.ofBool c ++ v.extractLsb' 1 31 = BitVec.ofNat 32 (v.toNat / 2 + if c then 2 ^ 31 else 0) := by
  have hv := v.isLt
  have hlow : (v.extractLsb' 1 31).toNat = v.toNat / 2 := by
    rw [BitVec.extractLsb'_toNat, Nat.shiftRight_eq_div_pow]
    omega
  apply BitVec.eq_of_toNat_eq
  rw [BitVec.toNat_append, ← Nat.shiftLeft_add_eq_or_of_lt (BitVec.isLt _), hlow, BitVec.toNat_ofNat, BitVec.toNat_ofBool,
    Nat.shiftLeft_eq]
  cases c
  · rw [Bool.toNat_false, if_neg Bool.false_ne_true]
    omega
  · rw [Bool.toNat_true, if_pos rfl]
    omega

theorem signBit_eq (v : Word) : v.getLsbD 31 = decide (v.toInt < 0) :=
  (BitVec.msb_eq_getLsbD_last v).symm.trans BitVec.msb_eq_toInt

/-- The word of sign bits is the exact quotient by 2^32, rounded down. -/
theorem signFill_eq_ofInt (v : Word) :
    (if v.getLsbD 31 then 0xFFFFFFFF#32 else 0x00000000#32) = BitVec.ofInt 32 (v.toInt / 2 ^ 32) := by
  have hlo := BitVec.le_toInt v
  have hhi := @BitVec.toInt_lt 32 v
  rw [signBit_eq]
  by_cases hneg : v.toInt < 0
  · rw [Int.ediv_eq_neg_one_of_neg_of_le hneg (by omega), decide_eq_true hneg]
    rfl
  · rw [Int.ediv_eq_zero_of_lt (by omega) (by omega), decide_eq_false hneg]
    rfl

/-- Settles O12: amount 0 by its special meanings, any other by the number each shift of a word is. -/
theorem shiftByImmediate : Obligations.ShiftByImmediate := by
  unfold Obligations.ShiftByImmediate
  intro n m c hn
  refine ⟨?_, fun hpos => ?_⟩
  · rintro rfl
    rw [← signFill_eq_ofInt, ← rotateThroughCarry_eq_ofNat]
    exact ⟨rfl, rfl, rfl, rfl⟩
  · rw [← shiftLeft_eq_ofNat, ← ushiftRight_eq_ofNat, ← sshiftRight_eq_ofInt, ← rotateRight_eq_ofNat m hn]
    have hne : n ≠ 0 := Nat.ne_of_gt hpos
    exact ⟨if_neg hne, if_neg hne, if_neg hne, if_neg hne⟩

/-- From 1 to 31 the two tables of R151 agree. -/
theorem shiftByReg_eq_shiftByImm {n : Nat} (hpos : 0 < n) (hn : n < 32) (ty : ShiftType) (v : Word) (c : Bool) :
    shiftByReg ty n v c = shiftByImm ty n v c := by
  have hne : n ≠ 0 := Nat.ne_of_gt hpos
  have hle : n ≤ 31 := Nat.le_of_lt_succ hn
  cases ty with
  | lsl | lsr | asr => simp only [shiftByReg, shiftByImm, if_neg hne, if_pos hle]
  | ror => simp only [shiftByReg, shiftByImm, Nat.mod_eq_of_lt hn, if_neg hne]

theorem shiftByReg_zero (ty : ShiftType) (v : Word) (c : Bool) : shiftByReg ty 0 v c = ⟨v, c⟩ := by
  cases ty <;> rfl

/-- A rotation by a register is one by the amount modulo 32, and leaves the word where that is 0. -/
theorem shiftByReg_ror {n : Nat} (hne : n ≠ 0) (v : Word) (c : Bool) :
    shiftByReg .ror n v c = if n % 32 = 0 then ⟨v, v.getLsbD 31⟩ else shiftByImm .ror (n % 32) v c := by
  by_cases hmod : n % 32 = 0
  · simp only [shiftByReg, if_neg hne, if_pos hmod]
  · simp only [shiftByReg, shiftByImm, if_neg hne, if_neg hmod]

/-- Settles O13: each row of the table is one branch. -/
theorem shiftByRegister : Obligations.ShiftByRegister := by
  unfold Obligations.ShiftByRegister
  intro n m c _
  refine ⟨?_, fun hpos hn ty => shiftByReg_eq_shiftByImm hpos hn ty m c, ?_, fun hn => ?_, fun hn => ?_, fun hn hmod => ?_,
    fun hn hmod => ?_⟩
  · rintro rfl ty
    exact shiftByReg_zero ty m c
  · rintro rfl
    exact ⟨rfl, rfl⟩
  · have h0 : n ≠ 0 := by omega
    have h31 : ¬ n ≤ 31 := by omega
    have h32 : n ≠ 32 := by omega
    simp only [shiftByReg, if_neg h0, if_neg h31, if_neg h32, and_self]
  · have h0 : n ≠ 0 := by omega
    have h31 : ¬ n ≤ 31 := by omega
    simp only [shiftByReg, if_neg h0, if_neg h31, signBit_eq, decide_eq_true_eq]
  · rw [shiftByReg_ror (by omega), if_pos hmod]
  · rw [shiftByReg_ror (by omega), if_neg hmod]

variable {s : State} {m : Mode} {i : Instr} {d : DataOp}

/-! ### The computations are exact (R9, R154 to R169) -/

/-- The computation as the meanings make it. -/
def DataOp.result (d : DataOp) (p : Word) : AluResult :=
  match d.op with
  | .andOp => aluAnd p d.a d.b
  | .eor => aluEor p d.a d.b
  | .sub => aluSub p d.a d.b
  | .rsb => aluRsb p d.a d.b
  | .add => aluAdd p d.a d.b
  | .adc => aluAdc p d.a d.b
  | .sbc => aluSbc p d.a d.b
  | .rsc => aluRsc p d.a d.b
  | .orr => aluOrr p d.a d.b
  | .mov => aluMov p d.b
  | .bic => aluBic p d.a d.b
  | .mvn => aluMvn p d.b

theorem addWithCarry_false (a b : Word) : addWithCarry a b false = exactResult false (fun a b => a + b) a b := by
  simp only [addWithCarry_exact, Bool.false_eq_true, if_false, Int.add_zero]

theorem addWithCarry_not_true (a b : Word) : addWithCarry a (~~~b) true = exactResult true (fun a b => a - b) a b := by
  simp only [addWithCarry_not_exact, if_true, Int.sub_self, Int.sub_zero]

theorem addWithCarry_value (a b : Word) (c : Bool) : (addWithCarry a b c).value = a + b + BitVec.ofNat 32 c.toNat := by
  simp only [addWithCarry, BitVec.ofNat_add, BitVec.ofNat_toNat, BitVec.setWidth_eq]

theorem addWithCarry_false_value (a b : Word) : (addWithCarry a b false).value = a + b :=
  (addWithCarry_value a b false).trans (BitVec.add_zero _)

theorem addWithCarry_not_true_value (a b : Word) : (addWithCarry a (~~~b) true).value = a - b := by
  rw [addWithCarry_value, BitVec.sub_eq_add_neg, BitVec.neg_eq_not_add, ← BitVec.add_assoc]
  rfl

theorem DataOp.result_eq_expected (d : DataOp) (p : Word) : d.result p = d.expected p := by
  obtain ⟨op, setFlags, dest, a, b⟩ := d
  cases op with
  | andOp | eor | orr | mov | bic | mvn => rfl
  | add => exact addWithCarry_false a b.value
  | adc => exact addWithCarry_exact a b.value (psrC p)
  | sub => exact addWithCarry_not_true a b.value
  | sbc => exact addWithCarry_not_exact a b.value (psrC p)
  | rsb => exact addWithCarry_not_true b.value a
  | rsc => exact addWithCarry_not_exact b.value a (psrC p)

/-! ### The endings of a computation (R150, R152, R153) -/

/-- How a computation ends in mode `m`: by its destination, or without one by its flags alone. -/
def DataOp.finish (d : DataOp) (m : Mode) (s : State) : Result :=
  match d.dest with
  | some rd => writeResult m d.setFlags rd (d.result s.cpsr) s
  | none => if d.setFlags then writeFlags (d.result s.cpsr) s else .next s.advance

theorem writeResult_of_ne_pc {rd : Reg} (h : rd ≠ Reg.pc) (sf : Bool) (r : AluResult) : writeResult m sf rd r s =
    .next (if sf then (s.writeReg m rd r.value).setCpsr (r.flags s.cpsr) else s.writeReg m rd r.value).advance :=
  if_neg h

theorem writeResult_pc (sf : Bool) (r : AluResult) : writeResult m sf Reg.pc r s =
    if sf then exceptionReturn s m r.value else .next (s.branchWritePC r.value) :=
  if_pos rfl

/-- Without flags a result is written as the last effect of an instruction is. -/
theorem writeResult_noFlags (rd : Reg) (r : AluResult) :
    writeResult m false rd r s = .next (s.writeDest m rd r.value) := by
  by_cases h : rd = Reg.pc
  · rw [h, writeResult_pc, State.writeDest_pcReg]
    rfl
  · rw [writeResult_of_ne_pc h, State.writeDest, if_neg h]
    rfl

/-- Every data-processing instruction that runs, of either state, ends as its row of the table says. -/
theorem exec_eq_finish (hrun : Runs i s m) (hd : dataOp? s m i = some d) (hok : unpredictableOperands m i = false) :
    exec i s = d.finish m s := by
  cases i with
  -- R154 to R169
  | andI | andR | eorI | eorR | subI | subR | rsbI | rsbR | addI | addR | adcI | adcR | sbcI | sbcR | rscI | rscR =>
    cases hd; exact hrun.arm _
  | orrI | orrR | movI | movR | bicI | bicR | mvnI | mvnR => cases hd; exact hrun.arm _
  | tstI | tstR | teqI | teqR | cmpI | cmpR | cmnI | cmnR => cases hd; exact hrun.arm _
  | andS | eorS | subS | rsbS | addS | adcS | sbcS | rscS | orrS | movS | bicS | mvnS =>
    cases hd; exact (hrun.arm _).trans (if_neg (ne_true_of_eq_false hok))
  | tstS | teqS | cmpS | cmnS => cases hd; exact (hrun.arm _).trans (if_neg (beq_eq_false_iff_ne.1 hok))
  -- R252 to R255
  | tLslI | tLsrI | tAsrI | tAddR | tSubR | tAddI3 | tSubI3 | tMovI | tCmpI | tAddI8 | tSubI8 => cases hd; exact hrun.thumb _
  | tAnd | tEor | tLslR | tLsrR | tAsrR | tAdc | tSbc | tRorR | tTst | tNeg | tCmpR | tCmn | tOrr | tBic | tMvn =>
    cases hd; exact hrun.thumb _
  -- R256
  | tAddHi rs rd =>
    cases hd
    refine ((hrun.thumb _).trans (if_neg (ne_true_of_eq_false ((bothLow_eq rd rs).trans hok)))).trans ?_
    rw [← addWithCarry_false_value]
    exact (writeResult_noFlags rd (addWithCarry _ _ false)).symm
  | tMovHi rs rd =>
    cases hd
    refine ((hrun.thumb _).trans (if_neg (ne_true_of_eq_false ((bothLow_eq rd rs).trans hok)))).trans ?_
    exact (writeResult_noFlags rd (aluMov s.cpsr (plainOperand s.cpsr (s.x m rs)))).symm
  | tCmpHi rs rd =>
    cases hd
    refine (hrun.thumb _).trans (if_neg ?_)
    rw [bothLow_eq]
    exact ne_true_of_eq_false hok
  -- R263, R264
  | tAddPc | tAddSp | tSpAdd =>
    cases hd
    refine (hrun.thumb _).trans ?_
    rw [← addWithCarry_false_value]
    exact (writeResult_noFlags _ (addWithCarry _ _ false)).symm
  | tSpSub =>
    cases hd
    refine (hrun.thumb _).trans ?_
    rw [← addWithCarry_not_true_value]
    exact (writeResult_noFlags _ (addWithCarry _ _ true)).symm
  -- no other instruction is in the table
  | _ => cases hd

/-! ### A destination other than R15 (R150, R152) -/

theorem AluResult.isz_setCpsr_flags (r : AluResult) (u : State) : (u.setCpsr (r.flags u.cpsr)).isz = u.isz := by
  simp only [State.isz, State.setCpsr_cpsr, t_of_low (r.flags_low u.cpsr)]

/-- What is left once the registers are written as in `u`: the flags where they are set, and pc past the instruction. -/
theorem dataDone_advance {u : State} (hu : u = { s with regs := u.regs })
    (hdest : ∀ rd p, d.dest = some rd → phys m rd = some p → u.getPhys p = (d.expected s.cpsr).value)
    (hregs : ∀ p, p ∉ d.written m → u.getPhys p = s.getPhys p) :
    DataDone d s.isz m s (if d.setFlags then u.setCpsr ((d.expected s.cpsr).flags s.cpsr) else u).advance := by
  have hcpsr : u.cpsr = s.cpsr := by rw [hu]
  have hpc : u.pc = s.pc := by rw [hu]
  have hisz : u.isz = s.isz := by rw [State.isz, hcpsr, State.isz]
  have hkeeps : ∀ q, Keeps (d.written m) [] s (u.setCpsr q).advance := fun q =>
    Keeps.of_regs _ hregs (by rw [hu]; rfl)
  cases hflags : d.setFlags with
  | false =>
    refine ⟨hdest, by rw [hflags]; nofun, fun _ => hcpsr, ?_, hkeeps u.cpsr⟩
    rw [if_neg Bool.false_ne_true, State.advance_pc, hpc, hisz]
  | true =>
    refine ⟨hdest, fun _ => (d.expected s.cpsr).flagsBecome s.cpsr, by rw [hflags]; nofun, ?_, hkeeps _⟩
    rw [if_pos rfl, State.advance_pc, ← hcpsr, AluResult.isz_setCpsr_flags, hisz, State.setCpsr_pc, hpc]

theorem finish_done (hdest : d.dest ≠ some 15) : ∃ t, d.finish m s = .next t ∧ DataDone d s.isz m s t := by
  rw [DataOp.finish, d.result_eq_expected]
  cases hd : d.dest with
  | none =>
    refine ⟨_, ?_, dataDone_advance (u := s) rfl (by rw [hd]; nofun) fun _ _ => rfl⟩
    cases d.setFlags <;> rfl
  | some rd =>
    have hrd : rd ≠ Reg.pc := fun h => hdest (hd.trans (congrArg some h))
    obtain ⟨p, hp⟩ := phys_isSome m hrd
    refine ⟨_, writeResult_of_ne_pc hrd _ _, ?_⟩
    rw [State.writeReg_some _ hp]
    refine dataDone_advance rfl (fun rd' q hd' hq => ?_) fun q hq => ?_
    · obtain rfl : rd = rd' := Option.some.inj (hd.symm.trans hd')
      rw [State.getPhys_setPhys, if_pos (Option.some.inj (hq.symm.trans hp))]
    · have hwritten : d.written m = [p] := by rw [DataOp.written, hd, Option.bind_some, hp, Option.toList_some]
      rw [State.getPhys_setPhys, if_neg (List.ne_of_not_mem_cons (hwritten ▸ hq))]

theorem exec_dataDone (hrun : Runs i s m) (hd : dataOp? s m i = some d) (hok : unpredictableOperands m i = false)
    (hdest : d.dest ≠ some 15) : ∃ t, exec i s = .next t ∧ DataDone d i.size m s t := by
  rw [exec_eq_finish hrun hd hok, ← hrun.isz_eq]
  exact finish_done hdest

/-- Settles O14: the ending of the computation, in an instruction of four bytes. -/
theorem dataProcessingArm : Obligations.DataProcessingArm := by
  unfold Obligations.DataProcessingArm
  intro i s m d hrun harm hd hok hdest
  have hdone := exec_dataDone hrun hd hok hdest
  rwa [Instr.size, harm] at hdone

/-! ### R15 as destination (R38, R135, R153) -/

theorem State.returnPsr_ok {e : ExcMode} {m' : Mode} (hdef : s.spsrDef.get e = true)
    (hmode : psrM (s.spsr.get e) = Mode.bits m') : s.returnPsr e.mode = .ok (s.spsr.get e) := by
  have hsaved : e.mode.saved = some e := Mode.saved_eq_some.2 rfl
  simp only [State.returnPsr, State.readSpsr, hsaved, hdef, hmode, Mode.ofBits_bits, Option.isSome_some, if_true]

theorem exceptionReturn_of_error {v : Violation} (h : s.returnPsr m = .error v) (target : Word) :
    exceptionReturn s m target = .fault (.violation v) := by
  rw [exceptionReturn, h]
  rfl

theorem exceptionReturn_of_ok {p : Word} (h : s.returnPsr m = .ok p) (target : Word) :
    exceptionReturn s m target = .next ((s.setCpsr p).branchWritePC target) := by
  rw [exceptionReturn, h]

theorem finish_of_dest_pc (hdest : d.dest = some 15) : d.finish m s =
    if d.setFlags then exceptionReturn s m (d.expected s.cpsr).value
    else .next (s.branchWritePC (d.expected s.cpsr).value) := by
  rw [DataOp.finish, hdest, d.result_eq_expected]
  exact writeResult_pc _ _

/-- Settles O16: the branch, and each answer of the exception return. -/
theorem destinationPc : Obligations.DestinationPc := by
  unfold Obligations.DestinationPc
  intro i s m d hrun hd hok hdest
  rw [exec_eq_finish hrun hd hok, finish_of_dest_pc hdest]
  refine ⟨fun hflags => ?_, fun hflags hm => ?_, ?_, ?_, ?_⟩
  · rw [if_neg (ne_true_of_eq_false hflags), ← hrun.state]
    rfl
  · rw [if_pos hflags, exceptionReturn_of_error (State.returnPsr_noSPSR hm)]
  · rintro e hflags rfl hdef
    rw [if_pos hflags, exceptionReturn_of_error (State.returnPsr_undefinedSPSR hdef)]
  · rintro e hflags rfl hdef hmode
    rw [if_pos hflags, exceptionReturn_of_error (State.returnPsr_illegalMode hdef hmode)]
  · rintro e m' hflags rfl hdef hmode
    rw [if_pos hflags, exceptionReturn_of_ok (State.returnPsr_ok hdef hmode)]
    rfl

end Sys2Proof.Machine
end

section
/-! PROOFS. The family of `42_multiply.md`. Every multiply that runs, of either state, ends by writing its exact result narrowed
(`exec_eq_writeProduct`, `exec_eq_writeLongProduct`). Both endings write registers and then finish in the same way
(`State.endMultiply`). -/
namespace Sys2Proof.Machine

variable {s u : State} {m : Mode} {i : Instr} {written : List PhysReg}

/-! ### The end that all multiplies share (R180) -/

/-- What follows the registers of a multiply: the status register `q` where it sets flags, and pc past the instruction. -/
def State.endMultiply (u : State) (sf : Bool) (q : Word) : State := (if sf then u.setCpsr q else u).advance

theorem writeProduct_eq_endMultiply (sf : Bool) (rd : Reg) (r : Word) :
    writeProduct m sf rd r s = .next ((s.writeReg m rd r).endMultiply sf (mulFlags s r)) := rfl

theorem writeLongProduct_eq_endMultiply (sf : Bool) (rdHi rdLo : Reg) (p : BitVec 64) :
    writeLongProduct m sf rdHi rdLo p s =
      .next (((s.writeReg m rdLo (p.extractLsb' 0 32)).writeReg m rdHi (p.extractLsb' 32 32)).endMultiply sf
        (mullFlags s p)) := rfl

@[simp] theorem State.getPhys_endMultiply (sf : Bool) (q : Word) (p : PhysReg) :
    (u.endMultiply sf q).getPhys p = u.getPhys p := by
  cases sf <;> rfl

theorem State.endMultiply_cpsr (sf : Bool) (q : Word) : (u.endMultiply sf q).cpsr = if sf then q else u.cpsr := by
  cases sf <;> rfl

/-- New flags leave the state bit, so ISZ is that of the instruction. -/
theorem State.endMultiply_pc (sf : Bool) {q : Word} (hlow : q.extractLsb' 0 28 = u.cpsr.extractLsb' 0 28) :
    (u.endMultiply sf q).pc = u.pc + u.isz := by
  cases sf with
  | false => rfl
  | true =>
    have hisz : (u.setCpsr q).isz = u.isz := by simp only [State.isz, State.setCpsr_cpsr, t_of_low hlow]
    exact congrArg (u.pc + ·) hisz

theorem Keeps.endMultiply (h : Keeps written [] s u) (sf : Bool) (q : Word) :
    Keeps written [] s (u.endMultiply sf q) := by
  cases sf <;> exact { h with }

theorem Keeps.setPhys (h : Keeps written [] s u) (p : PhysReg) (v : Word) :
    Keeps (p :: written) [] s (u.setPhys p v) := by
  have hregs : ∀ q, q ∉ p :: written → (u.setPhys p v).getPhys q = s.getPhys q := by
    intro q hq
    obtain ⟨hne, hrest⟩ := not_or.1 (mt List.mem_cons.2 hq)
    rw [State.getPhys_setPhys, if_neg hne, h.regs q hrest]
  exact { h with regs := hregs }

theorem Keeps.refl (s : State) : Keeps [] [] s s := Keeps.of_regs [] (fun _ _ => rfl) rfl

/-! ### Flags (R180, R183) -/

theorem setNZCV_flagsBecome (p : Word) (n z c v : Bool) : FlagsBecome p (setNZCV p n z c v) n z c v :=
  ⟨psrN_setNZCV p n z c v, psrZ_setNZCV p n z c v, psrC_setNZCV p n z c v, psrV_setNZCV p n z c v, setNZCV_low p n z c v⟩

theorem beq_zero_eq_decide {n : Nat} (x : BitVec n) : (x == 0#n) = decide (x.toNat = 0) := by
  have hiff : x = 0#n ↔ x.toNat = 0 := by rw [BitVec.toNat_eq, BitVec.toNat_zero]
  exact Bool.eq_iff_iff.2 (beq_iff_eq.trans (hiff.trans decide_eq_true_iff.symm))

/-- Whatever C is free to be, a reader of the flags sees N and Z of the result and the old V (R181). -/
theorem mulFlags_become (s : State) (r : Word) :
    FlagsBecome s.cpsr (mulFlags s r) (decide (2 ^ 31 ≤ r.toNat)) (decide (r.toNat = 0)) (psrC (mulFlags s r))
      (psrV s.cpsr) := by
  have hflags := setNZCV_flagsBecome s.cpsr (r.getLsbD 31) (r == 0#32) (Config.freeBit s.draws 0) (psrV s.cpsr)
  have hsign : r.getLsbD 31 = decide (2 ^ 31 ≤ r.toNat) := (BitVec.msb_eq_getLsbD_last r).symm.trans (BitVec.msb_eq_decide r)
  rw [← hsign, ← beq_zero_eq_decide]
  exact { hflags with c := rfl }

/-- Whatever C and V are free to be, a reader of the flags sees N and Z of the 64-bit result (R183). -/
theorem mullFlags_become (s : State) (product : Int) :
    FlagsBecome s.cpsr (mullFlags s (BitVec.ofInt 64 product)) (BitVec.ofInt 64 product).msb (decide (product % 2 ^ 64 = 0))
      (psrC (mullFlags s (BitVec.ofInt 64 product))) (psrV (mullFlags s (BitVec.ofInt 64 product))) := by
  have hflags := setNZCV_flagsBecome s.cpsr ((BitVec.ofInt 64 product).getLsbD 63) (BitVec.ofInt 64 product == 0#64)
    (Config.freeBit s.draws 0) (Config.freeBit s.draws 1)
  have hzero : (BitVec.ofInt 64 product == 0#64) = decide (product % 2 ^ 64 = 0) := by
    rw [beq_zero_eq_decide, BitVec.toNat_ofInt]
    exact decide_eq_decide.2 (by omega)
  rw [BitVec.msb_eq_getLsbD_last, ← hzero]
  exact { hflags with c := rfl, v := rfl }

/-! ### The multiplies with a 32-bit result (R181, R182, R255) -/

theorem exec_eq_writeProduct {o : MulOp} (hrun : Runs i s m) (hop : mulOp? s m i = some o)
    (hoperands : unpredictableOperands m i = false) :
    o.rd ≠ Reg.pc ∧ exec i s = writeProduct m o.setFlags o.rd (BitVec.ofNat 32 o.product) s := by
  have hclash : ¬ unpredictableOperands m i = true := ne_true_of_eq_false hoperands
  cases i with
  | mul => cases hop; exact ⟨mulClash_rd hclash, hrun.arm_guarded rfl hclash⟩
  | mla c sf rd rn rs rm =>
    cases hop
    have hmla : ¬ (mulClash rd rs rm || rn == Reg.pc) = true := (mlaClash_eq rd rn rs rm).symm ▸ hclash
    exact ⟨mulClash_rd' hmla, hrun.arm_guarded rfl hmla⟩
  | tMul rs rd =>
    cases hop
    exact ⟨loReg_ne_pc rd, (hrun.thumb _).trans (if_neg (beq_eq_false_iff_ne.1 hoperands).symm)⟩
  | _ => cases hop

/-- Settles O17: the one register written, and the end that all multiplies share. -/
theorem multiply : Obligations.Multiply := by
  unfold Obligations.Multiply
  intro i s m o hrun hop hoperands
  obtain ⟨hrd, hexec⟩ := exec_eq_writeProduct hrun hop hoperands
  obtain ⟨p, hp⟩ := phys_isSome m hrd
  rw [hexec, writeProduct_eq_endMultiply, State.writeReg_some _ hp, ← hrun.isz_eq]
  refine ⟨_, p, BitVec.ofNat 32 o.product, rfl, hp, ?_, BitVec.toNat_ofNat _ _, fun hflags => ?_, fun hflags => ?_,
    State.endMultiply_pc _ (setNZCV_low _ _ _ _ _), ((Keeps.refl s).setPhys p _).endMultiply _ _⟩
  · rw [State.getPhys_endMultiply, State.getPhys_setPhys, if_pos rfl]
  · rw [State.endMultiply_cpsr, if_pos hflags]
    exact mulFlags_become s _
  · rw [State.endMultiply_cpsr, if_neg (ne_true_of_eq_false hflags), State.setPhys_cpsr]

/-! ### The long multiplies (R183 to R186) -/

theorem mullClash_hi_ne_lo {hi lo rs rm : Reg} (h : ¬ mullClash hi lo rs rm = true) : hi ≠ lo := by
  rintro rfl
  simp [mullClash] at h

theorem exec_eq_writeLongProduct {o : LongMulOp} (hrun : Runs i s m) (hop : longMulOp? s m i = some o)
    (hoperands : unpredictableOperands m i = false) :
    (o.rdHi ≠ Reg.pc ∧ o.rdLo ≠ Reg.pc ∧ o.rdHi ≠ o.rdLo) ∧
      exec i s = writeLongProduct m o.setFlags o.rdHi o.rdLo (BitVec.ofInt 64 o.product) s := by
  have hclash : ¬ unpredictableOperands m i = true := ne_true_of_eq_false hoperands
  cases i with
  | umull | umlal =>
    cases hop
    rw [BitVec.ofInt_natCast]
    exact ⟨⟨mullClash_hi hclash, mullClash_lo hclash, mullClash_hi_ne_lo hclash⟩, hrun.arm_guarded rfl hclash⟩
  | smull | smlal =>
    cases hop
    exact ⟨⟨mullClash_hi hclash, mullClash_lo hclash, mullClash_hi_ne_lo hclash⟩, hrun.arm_guarded rfl hclash⟩
  | _ => cases hop

/-- Settles O18: the two registers written, which differ, and the end that all multiplies share. -/
theorem longMultiply : Obligations.LongMultiply := by
  unfold Obligations.LongMultiply
  intro i s m o hrun hop hoperands
  obtain ⟨⟨hhi, hlo, hne⟩, hexec⟩ := exec_eq_writeLongProduct hrun hop hoperands
  obtain ⟨pHi, hpHi⟩ := phys_isSome m hhi
  obtain ⟨pLo, hpLo⟩ := phys_isSome m hlo
  have hphys : pLo ≠ pHi := fun h => hne (phys_injective hpHi (h ▸ hpLo))
  rw [hexec, writeLongProduct_eq_endMultiply, State.writeReg_some _ hpLo, State.writeReg_some _ hpHi, ← hrun.isz_eq]
  refine ⟨_, pHi, pLo, rfl, hpHi, hpLo, ?_, fun hflags => ?_, fun hflags => ?_,
    State.endMultiply_pc _ (setNZCV_low _ _ _ _ _), (((Keeps.refl s).setPhys pLo _).setPhys pHi _).endMultiply _ _⟩
  · simp only [State.getPhys_endMultiply, State.getPhys_setPhys, if_pos, if_neg hphys]
    exact BitVec.extractLsb'_append_extractLsb'
  · rw [State.endMultiply_cpsr, if_pos hflags]
    exact mullFlags_become s _
  · rw [State.endMultiply_cpsr, if_neg (ne_true_of_eq_false hflags), State.setPhys_cpsr, State.setPhys_cpsr]

end Sys2Proof.Machine
end

section
/-! PROOFS. The family of `43_load_store.md`. A transfer is a chain of accesses and register writes, so its frame is the chain
of theirs (`Keeps.trans`). Single transfers and swaps share one write request (`State.memWrite_completes`); a block transfer of
either state is `loadBlock` or `storeBlock` over its row of the table (`exec_blockLoad`, `exec_blockStore`). -/
namespace Sys2Proof.Machine

/-! ### Addressing (R190, R199) -/

/-- Settles O21: each value of P is one branch of the definition. -/
theorem addressing : Obligations.Addressing := by
  unfold Obligations.Addressing
  exact fun _ _ _ _ _ => ⟨rfl, rfl⟩

/-! ### Frames in sequence -/

section
variable {s t u : State} {m : Mode} {written written' : List PhysReg} {stored stored' : List Nat}

theorem Keeps.trans (h : Keeps written stored s t) (g : Keeps written' stored' t u) :
    Keeps (written' ++ written) (stored' ++ stored) s u where
  regs p hp := by
    obtain ⟨hp', hp⟩ := not_or.1 (mt List.mem_append.2 hp)
    exact (g.regs p hp').trans (h.regs p hp)
  mem n hn := by
    obtain ⟨hn', hn⟩ := not_or.1 (mt List.mem_append.2 hn)
    exact (g.mem n hn').trans (h.mem n hn)
  spsr := g.spsr.trans h.spsr
  spsrDef := g.spsrDef.trans h.spsrDef
  irqPending := g.irqPending.trans h.irqPending
  fiqPending := g.fiqPending.trans h.fiqPending
  resetPending := g.resetPending.trans h.resetPending
  halted := g.halted.trans h.halted
  cycles := g.cycles.trans h.cycles
  regions := g.regions.trans h.regions
  deviceWrites := g.deviceWrites.trans h.deviceWrites
  copAnswers := g.copAnswers.trans h.copAnswers
  copRequests := g.copRequests.trans h.copRequests
  params := g.params.trans h.params
  draws := g.draws.trans h.draws

theorem Keeps.advance (h : Keeps written stored s u) : Keeps written stored s u.advance := { h with }

theorem Keeps.branchWritePC (h : Keeps written stored s u) (v : Word) : Keeps written stored s (u.branchWritePC v) :=
  { h with }

theorem Keeps.applyWriteBack {ad : Address} (hsafe : ad.Safe) : Keeps (ad.written m) [] s (s.applyWriteBack m ad) := by
  obtain ⟨-, hregs, hrest⟩ := State.applyWriteBack_spec m hsafe s
  exact Keeps.of_regs _ hregs (by rw [hrest])

/-- A destination, which for R15 is no physical register. -/
theorem Keeps.writeDest (r : Reg) (v : Word) : Keeps (phys m r).toList [] s (s.writeDest m r v) := by
  by_cases hr : r = Reg.pc
  · subst hr
    rw [State.writeDest_pcReg, phys_pc]
    exact (Keeps.refl s).branchWritePC v
  · obtain ⟨p, hp⟩ := phys_isSome m hr
    rw [State.writeDest_some v hp, hp]
    exact ((Keeps.refl s).setPhys p v).advance

end

/-! ### Single loads (R191 to R198, R257 to R262) -/

section
variable {i : Instr} {s : State} {m : Mode}

/-- A write-back that passes the test on its operands is not to the destination (R190). -/
theorem indexedAddress_writeBack_ne {p u w : Bool} {rn rd : Reg} {base off : Word} (h : writeBackClash p w rn rd = false)
    {r : Reg} {v : Word} (hwb : (indexedAddress p u w rn base off).writeBack = some (r, v)) : r ≠ rd := by
  have hback : (!p || w) = true ∧ r = rn := by
    cases p <;> cases w <;> cases hwb <;> exact ⟨rfl, rfl⟩
  obtain ⟨hpw, rfl⟩ := hback
  rw [writeBackClash, hpw, Bool.true_and, Bool.or_eq_false_iff] at h
  exact beq_eq_false_iff_ne.1 h.2

/-- Where section U leaves the operands of a single load defined, the base written back is not its destination (R190, U6). -/
theorem load_writeBack_ne {o : LoadOp} (hop : loadOp? s m i = some o) (hoperands : unpredictableOperands m i = false)
    {r : Reg} {v : Word} (hwb : o.ad.writeBack = some (r, v)) : r ≠ o.rd := by
  have hclash : ¬ unpredictableOperands m i = true := ne_true_of_eq_false hoperands
  cases i with
  | ldrI => cases hop; exact indexedAddress_writeBack_ne (noClash hclash) hwb
  | ldrR | ldrbI | ldrhI | ldrsbI | ldrshI => cases hop; exact indexedAddress_writeBack_ne (noClash_of_or hclash) hwb
  | ldrbR | ldrhR | ldrsbR | ldrshR => cases hop; exact indexedAddress_writeBack_ne (noClash_of_or_or hclash) hwb
  | tLdrPc | tLdrR | tLdrbR | tLdsbR | tLdrhR | tLdshR | tLdrI | tLdrbI | tLdrhI | tLdrSp => cases hop; cases hwb
  | _ => cases hop

/-- A single load to R15 is of ARM state. -/
theorem load_pc_arm {o : LoadOp} (hop : loadOp? s m i = some o) (hrd : o.rd = Reg.pc) : i.isThumb = false := by
  cases i with
  | ldrI | ldrR | ldrbI | ldrbR | ldrhR | ldrhI | ldrsbR | ldrsbI | ldrshR | ldrshI => rfl
  | tLdrPc | tLdrR | tLdrbR | tLdsbR | tLdrhR | tLdshR | tLdrI | tLdrbI | tLdrhI | tLdrSp =>
    cases hop
    exact absurd hrd (loReg_ne_pc _)
  | _ => cases hop

theorem State.getPhys_writeDest {r : Reg} {p : PhysReg} (v : Word) (hp : phys m r = some p) :
    (s.writeDest m r v).getPhys p = v := by
  rw [State.writeDest_some v hp, State.getPhys_advance, State.getPhys_setPhys, if_pos rfl]

theorem State.getPhys_writeDest_of_ne {r r' : Reg} {p : PhysReg} (v : Word) (hp : phys m r' = some p) (hne : r' ≠ r) :
    (s.writeDest m r v).getPhys p = s.getPhys p :=
  (Keeps.writeDest r v).regs p fun hmem => hne (phys_injective hp (Option.mem_toList.1 hmem))

theorem State.writeDest_pc_eq (r : Reg) (v : Word) : (s.writeDest m r v).pc =
    if r = 15 then (if psrT s.cpsr then v &&& 0xFFFFFFFE#32 else v &&& 0xFFFFFFFC#32) else s.pc + s.isz := by
  by_cases hr : r = Reg.pc
  · rw [if_pos hr, hr, State.writeDest_pcReg, State.branchWritePC_pc]
  · obtain ⟨p, hp⟩ := phys_isSome m hr
    rw [if_neg hr, State.writeDest_some v hp, State.advance_pc, State.isz_setPhys, State.setPhys_pc]

/-- Settles O22: the answer of the access, then the write-back and the destination, which differ. -/
theorem loadCompletes : Obligations.LoadCompletes := by
  unfold Obligations.LoadCompletes
  intro i s m o hrun hop hoperands hdefined hanswers
  obtain ⟨hsafe, hexec⟩ := exec_load hrun hop hoperands
  obtain ⟨v, hanswer, hgives⟩ := o.answer_some s hanswers
  rw [LoadOp.run_of_defined hdefined, hanswer] at hexec
  obtain ⟨hbase, -, -⟩ := State.applyWriteBack_spec m hsafe s
  have hbody : Body s (s.applyWriteBack m o.ad) := Body.applyWriteBack hsafe
  refine ⟨_, v, hexec, fun hdevice => hgives hdevice hdefined, fun p hp => State.getPhys_writeDest v hp, ?_,
    fun rn w p hwb hp => ?_, ?_, (Keeps.applyWriteBack hsafe).trans (Keeps.writeDest o.rd v)⟩
  · rw [State.writeDest_pc_eq, hbody.cpsr, hbody.pc, hbody.isz, hrun.isz_eq]
    by_cases hrd : o.rd = 15
    · rw [if_pos hrd, if_pos hrd, hrun.state, load_pc_arm hop hrd, if_neg Bool.false_ne_true]
    · rw [if_neg hrd, if_neg hrd]
  · rw [State.getPhys_writeDest_of_ne v hp (load_writeBack_ne hop hoperands hwb)]
    exact hbase rn w p hwb hp
  · rw [State.writeDest_cpsr, hbody.cpsr]

/-! ### One write request (R60, R63) -/

theorem State.recorded_one (s : State) (w : DeviceWrite) :
    s.recorded [w] = if s.isDevice w.address then w :: s.deviceWrites else s.deviceWrites := by
  unfold State.recorded
  rw [List.filter_cons, List.filter_nil]
  split <;> rfl

/-- A defined write that is not answered Fault leaves its bytes in storage or in the record of a device. -/
theorem State.memWrite_completes (hwf : s.mem.wf = true) {w : Width} {a : Word} (v : Word) (hdefined : w.defined s a)
    (haccepts : s.accepts (w.request a) = true) :
    ∃ u, s.memWrite (w.request a) (w.bytesOf v) = some u ∧ Body s u ∧
      (s.isDevice (w.request a) = false → ∀ k, k < w.bytes →
        u.mem.read ((w.request a).toNat + k) = v.extractLsb' (8 * k) 8) ∧
      Keeps [] (if s.isDevice (w.request a) then [] else w.cells a)
        { s with deviceWrites := s.recorded [⟨w.request a, w.bytesOf v⟩] } u := by
  rw [State.recorded_one]
  cases hdevice : s.isDevice (w.request a) with
  | true =>
    have hwrite := State.memWrite_device (w.bytesOf v) haccepts hdevice
    exact ⟨_, hwrite, Body.of_onlyMem (State.memWrite_onlyMem hwrite), nofun, Keeps.refl _⟩
  | false =>
    have hwrite := State.memWrite_storage (w.bytesOf v) haccepts hdevice
    obtain ⟨hbytes, hrest⟩ := Width.read_written hwf w a v hdefined
    exact ⟨_, hwrite, Body.of_onlyMem (State.memWrite_onlyMem hwrite), fun _ => hbytes, { Keeps.refl s with mem := hrest }⟩

/-! ### Single stores (R192 to R196, R258 to R262) -/

/-- Settles O23: the write request, then the write-back. -/
theorem storeCompletes : Obligations.StoreCompletes := by
  unfold Obligations.StoreCompletes
  intro i s m o hrun hop hoperands hdefined haccepts
  obtain ⟨hsafe, hexec⟩ := exec_store hrun hop hoperands
  obtain ⟨u, hwrite, hu, hbytes, hkeeps⟩ := State.memWrite_completes hrun.inv.mem o.value hdefined haccepts
  rw [StoreOp.run_of_defined hdefined, hwrite] at hexec
  obtain ⟨hbase, -, -⟩ := State.applyWriteBack_spec m hsafe u
  have hback : Keeps (o.ad.written m) [] u (u.applyWriteBack m o.ad) := Keeps.applyWriteBack hsafe
  have hbody : Body s (u.applyWriteBack m o.ad) := hu.trans (Body.applyWriteBack hsafe)
  refine ⟨_, hexec, fun hdevice k hk => ?_, hbase, hbody.cpsr, ?_, ?_⟩
  · exact (hback.mem _ List.not_mem_nil).trans (hbytes hdevice k hk)
  · rw [State.advance_pc, hbody.pc, hbody.isz, hrun.isz_eq]
  · have hchain := (hkeeps.trans hback).advance
    rwa [List.append_nil] at hchain

/-! ### Swaps (R206, R207) -/

/-- SWP and SWPB that pass the tests on operands and address read and write by one request of their width each. -/
theorem exec_swap {byte : Bool} {c : Cond} {rn rd rm : Reg} {i : Instr} {w : Width}
    (hi : i = if byte then .swpb c rn rd rm else .swp c rn rd rm) (hw : w = if byte then .byte else .word)
    (hrun : Runs i s m) (hoperands : unpredictableOperands m i = false) (hdefined : w.defined s (s.x m rn)) :
    rd ≠ Reg.pc ∧ exec i s = finishSwap m rd (LoadOp.answer ⟨w, false, rd, .plain (s.x m rn)⟩ s)
      (s.memWrite (w.request (s.x m rn)) (w.bytesOf (s.x m rm))) s := by
  cases byte with
  | true =>
    subst hi hw
    have hclash : ¬ swpClash rn rd rm = true := ne_true_of_eq_false hoperands
    exact ⟨swpClash_rd hclash, hrun.arm_guarded rfl hclash⟩
  | false =>
    subst hi hw
    have hclash : ¬ (swpClash rn rd rm || s.wordRefused (s.x m rn)) = true := fun h =>
      (Bool.or_eq_true_iff.1 h).elim (ne_true_of_eq_false hoperands) fun hrefused => (s.wordRefused_iff _).1 hrefused hdefined
    exact ⟨swpClash_rd' hclash, (hrun.arm _).trans (if_neg hclash)⟩

theorem finishSwap_of_fault {rd : Reg} {data : Option Word} {stored : Option State} (h : data = none ∨ stored = none) :
    finishSwap m rd data stored s = .next (s.raise .dataAbort s.pc) := by
  rcases h with rfl | rfl
  · rfl
  · cases data <;> rfl

/-- Where both accesses are answered a swap is its write request and then the destination. -/
theorem finishSwap_completes (hwf : s.mem.wf = true) {w : Width} {rd : Reg} {a value : Word} (v : Word)
    (hrd : rd ≠ Reg.pc) (hdefined : w.defined s a) (haccepts : s.accepts (w.request a) = true) :
    ∃ t, finishSwap m rd (some v) (s.memWrite (w.request a) (w.bytesOf value)) s = .next t ∧
      (∀ p, phys m rd = some p → t.getPhys p = v) ∧
      (s.isDevice (w.request a) = false → ∀ k, k < w.bytes →
        t.mem.read ((w.request a).toNat + k) = value.extractLsb' (8 * k) 8) ∧
      t.cpsr = s.cpsr ∧ t.pc = s.pc + s.isz ∧
      Keeps (phys m rd).toList (if s.isDevice (w.request a) then [] else w.cells a)
        { s with deviceWrites := s.recorded [⟨w.request a, w.bytesOf value⟩] } t := by
  obtain ⟨u, hwrite, hu, hbytes, hkeeps⟩ := State.memWrite_completes hwf value hdefined haccepts
  have hend : (u.writeReg m rd v).advance = u.writeDest m rd v := (if_neg hrd).symm
  have hdest : Keeps (phys m rd).toList [] u (u.writeDest m rd v) := Keeps.writeDest rd v
  refine ⟨u.writeDest m rd v, by rw [hwrite, ← hend]; rfl, fun q hq => State.getPhys_writeDest v hq, fun hdevice k hk => ?_,
    (State.writeDest_cpsr u m rd v).trans hu.cpsr, ?_, ?_⟩
  · rw [State.writeDest_mem, hbytes hdevice k hk]
  · rw [State.writeDest_pc_eq, if_neg hrd, hu.pc, hu.isz]
  · have hchain := hkeeps.trans hdest
    rwa [List.append_nil] at hchain

/-- Settles O30: the two requests, then the destination, or the entry at the first that faults. -/
theorem swap : Obligations.Swap := by
  unfold Obligations.Swap
  intro byte c rn rd rm s m i w a hrun hoperands hdefined
  obtain ⟨hrd, hexec⟩ := exec_swap rfl rfl hrun hoperands hdefined
  have hisz : s.isz = 4#32 := by
    rw [hrun.isz_eq]
    cases byte <;> rfl
  rw [hexec]
  refine ⟨fun hanswers haccepts hdevice => ?_, fun hanswers haccepts hdevice => ?_, fun hfault => ?_⟩
  · obtain ⟨v, hanswer, hgives⟩ := LoadOp.answer_some ⟨w, false, rd, .plain a⟩ s hanswers
    obtain ⟨t, ht, hdest, hbytes, hcpsr, hpc, hkeeps⟩ :=
      finishSwap_completes (m := m) (value := s.x m rm) hrun.inv.mem v hrd hdefined haccepts
    rw [State.recorded_one, hdevice] at hkeeps
    exact ⟨t, v, by rw [hanswer, ht], hgives hdevice hdefined, hdest, hbytes hdevice, hcpsr, by rw [hpc, hisz], hkeeps⟩
  · obtain ⟨v, hanswer, -⟩ := LoadOp.answer_some ⟨w, false, rd, .plain a⟩ s hanswers
    obtain ⟨t, ht, -, -, hcpsr, hpc, hkeeps⟩ :=
      finishSwap_completes (m := m) (value := s.x m rm) hrun.inv.mem v hrd hdefined haccepts
    rw [hdevice] at hkeeps
    exact ⟨t, by rw [hanswer, ht], hcpsr, by rw [hpc, hisz], hkeeps⟩
  · exact ⟨_, finishSwap_of_fault (hfault.imp (LoadOp.answer_absent _ s) State.memWrite_none.2),
      entered_raise .dataAbort s s.pc⟩

end

/-! ### Register lists (R201, R265, R266) -/

/-- Lists ascend, so a listed base with no lower register listed is the first (R202). -/
theorem storeBaseClash_eq_false {list : BitVec 16} {rn : Reg}
    (h : (list.getLsbD rn.val && lowerListed list rn) = false) : storeBaseClash (listRegs list) rn = false := by
  rw [storeBaseClash, contains_listRegs]
  refine Bool.eq_false_iff.2 fun hclash => ?_
  obtain ⟨hrn, hhead⟩ := Bool.and_eq_true_iff.1 hclash
  rw [hrn, Bool.true_and] at h
  have hascending := listRegs_ascending list
  have hmem : rn ∈ listRegs list := mem_listRegs.2 hrn
  cases hregs : listRegs list with
  | nil => rw [hregs] at hmem; cases hmem
  | cons r rest =>
    rw [hregs] at hascending hmem hhead
    have hne : r ≠ rn := fun hr => bne_iff_ne.1 hhead (congrArg some hr)
    have hlt : r < rn := (List.pairwise_cons.1 hascending).1 rn ((List.mem_cons.1 hmem).resolve_left hne.symm)
    have hr : list.getLsbD r.val = true := mem_listRegs.1 (hregs ▸ List.mem_cons_self)
    have hlower : lowerListed list rn = true :=
      List.any_eq_true.2 ⟨r, List.mem_finRange r, by rw [hr, decide_eq_true hlt]; rfl⟩
    rw [h] at hlower
    cases hlower

/-- A register list is its part among R0 to R7, then its part among R8 to R15. -/
theorem listRegs_split (list : BitVec 16) : listRegs list =
    (allRegs.take 8).filter (fun r => list.getLsbD r.val) ++ (allRegs.drop 8).filter (fun r => list.getLsbD r.val) := by
  rw [← List.filter_append, List.take_append_drop]
  rfl

/-- An 8-bit list below the byte that names at most the register `x` (R265). -/
theorem listRegs_append {top : BitVec 8} {r : Bool} {x : Reg} (hx : 8 ≤ x.val)
    (htop : ∀ k : Reg, 8 ≤ k.val → top.getLsbD (k.val - 8) = (r && k == x)) (rlist : BitVec 8) :
    listRegs (top ++ rlist) = lowListRegs rlist (if r then some x else none) := by
  have hlow : ∀ k ∈ allRegs.take 8, (top ++ rlist).getLsbD k.val = (rlist.setWidth 16).getLsbD k.val := fun k hk => by
    have hk8 : k.val < 8 := (by decide : ∀ k ∈ allRegs.take 8, k.val < 8) k hk
    rw [BitVec.getLsbD_append, if_pos hk8, BitVec.getLsbD_setWidth, decide_eq_true k.isLt, Bool.true_and]
  have hhigh : ∀ k ∈ allRegs.drop 8, 8 ≤ k.val := by decide
  have hextra : ∀ k ∈ allRegs.drop 8, (top ++ rlist).getLsbD k.val = (r && k == x) := fun k hk => by
    rw [BitVec.getLsbD_append, if_neg (Nat.not_lt.2 (hhigh k hk)), htop k (hhigh k hk)]
  have hnone : ∀ k ∈ allRegs.drop 8, ¬ (rlist.setWidth 16).getLsbD k.val = true := fun k hk hbit => by
    rw [BitVec.getLsbD_setWidth, BitVec.getLsbD_of_ge rlist _ (hhigh k hk), Bool.and_false] at hbit
    cases hbit
  have honly : (allRegs.drop 8).filter (fun k => r && k == x) = (if r then some x else none).toList := by
    clear htop hextra
    revert r x
    decide
  rw [lowListRegs, listRegs_split, listRegs_split, List.filter_congr hlow, List.filter_congr hextra, honly,
    List.filter_eq_nil_iff.2 hnone, List.append_nil]

/-- POP's list as a 16-bit list: R is bit 15 (R265). -/
theorem listRegs_pop (r : Bool) (rlist : BitVec 8) :
    listRegs (BitVec.ofBool r ++ 0b0000000#7 ++ rlist) = lowListRegs rlist (if r then some Reg.pc else none) :=
  listRegs_append (by decide) (by revert r; decide) rlist

/-- PUSH's list as a 16-bit list: R is bit 14 (R265). -/
theorem listRegs_push (r : Bool) (rlist : BitVec 8) :
    listRegs (0b0#1 ++ BitVec.ofBool r ++ 0b000000#6 ++ rlist) = lowListRegs rlist (if r then some Reg.lr else none) :=
  listRegs_append (by decide) (by revert r; decide) rlist

theorem lowListRegs_none (rlist : BitVec 8) : lowListRegs rlist none = listRegs (rlist.setWidth 16) := List.append_nil _

/-- A list that names a register is not empty (R265, R266, U11). -/
theorem lowListRegs_not_isEmpty {r : Bool} {rlist : BitVec 8} {extra : Reg} (h : (!r && rlist == 0x00#8) = false) :
    ¬ (lowListRegs rlist (if r then some extra else none)).isEmpty = true := by
  rw [List.isEmpty_iff]
  intro hnil
  obtain ⟨hlow, hextra⟩ := List.append_eq_nil_iff.1 hnil
  cases r with
  | true => cases hextra
  | false =>
    rw [Bool.not_false, Bool.true_and, beq_eq_false_iff_ne] at h
    refine h (BitVec.eq_of_getLsbD_eq fun k hk => ?_)
    rw [BitVec.getLsbD_zero]
    refine Bool.eq_false_iff.2 fun hbit => ?_
    have hmem : (⟨k, by omega⟩ : Reg) ∈ listRegs (rlist.setWidth 16) :=
      mem_listRegs.2 (by rw [BitVec.getLsbD_setWidth, hbit, decide_eq_true (by omega)]; rfl)
    rw [hlow] at hmem
    cases hmem

/-! ### Every block transfer as one equation -/

section
variable {i : Instr} {s : State} {m : Mode} {o : BlockOp}

/-- What holds of the row of a block transfer whose operands section U leaves defined. -/
structure BlockOp.Legal (o : BlockOp) (s : State) (m : Mode) : Prop where
  rn      : o.rn ≠ Reg.pc
  base    : o.base = s.x m o.rn
  regs    : ∃ list, o.regs = listRegs list
  returns : o.returns = true → Reg.pc ∈ o.regs

/-- The row of a block transfer in the terms of the meanings. -/
theorem armBlock_eq (p u user returns w : Bool) (rn : Reg) (list : BitVec 16) :
    armBlock s m p u user returns w rn list =
      { rn := rn, base := s.x m rn, regs := listRegs list, start := blockStart p u (s.x m rn) (listRegs list).length,
        wb := if w then some (blockWriteBack u (s.x m rn) (listRegs list).length) else none,
        bank := if user then .usr else m, returns := returns } := by
  rw [listRegs_eq_filter]
  cases p <;> cases u <;> rfl

theorem armBlock_legal {p u user returns w : Bool} {rn : Reg} {list : BitVec 16} (hrn : rn ≠ Reg.pc)
    (hreturns : returns = true → list.getLsbD 15 = true) :
    (armBlock s m p u user returns w rn list).Legal s m := by
  rw [armBlock_eq]
  exact ⟨hrn, rfl, ⟨list, rfl⟩, fun h => mem_listRegs.2 (hreturns h)⟩

/-- The exception return form finds an SPSR it can restore (R38). -/
def BlockOp.CanReturn (o : BlockOp) (s : State) (m : Mode) : Prop :=
  o.returns = true → ∃ e m', m = e.mode ∧ s.spsrDef.get e = true ∧ (s.spsr.get e).extractLsb' 0 5 = Mode.bits m'

/-- The CPSR that a block load restores (R203). -/
def BlockOp.restored (o : BlockOp) (s : State) (m : Mode) : Option Word :=
  if o.returns then m.saved.map s.spsr.get else none

theorem BlockOp.restored_of_not_returns (h : o.returns = false) : o.restored s m = none :=
  if_neg (ne_true_of_eq_false h)

theorem BlockOp.restored_of_returns {e : ExcMode} (h : o.returns = true) (hm : m = e.mode) :
    o.restored s m = some (s.spsr.get e) := by
  rw [BlockOp.restored, if_pos h, Mode.saved_eq_some.2 hm]
  rfl

theorem BlockOp.CanReturn.returnPsr (h : o.CanReturn s m) (ho : o.returns = true) :
    ∃ q, s.returnPsr m = .ok q ∧ o.restored s m = some q := by
  obtain ⟨e, m', hm, hdef, hmode⟩ := h ho
  exact ⟨s.spsr.get e, by rw [hm]; exact State.returnPsr_ok hdef hmode, BlockOp.restored_of_returns ho hm⟩

/-- The block load of a row. -/
def BlockOp.load (o : BlockOp) (m : Mode) (s : State) : Result :=
  loadBlock m o.bank o.rn o.base o.start o.regs o.wb (o.restored s m) s

/-- The block store of a row. -/
def BlockOp.store (o : BlockOp) (m : Mode) (s : State) : Result :=
  storeBlock m o.bank o.rn o.start o.regs o.wb s

/-- LDM in its three forms, behind the tests on its operands (R201 to R203). -/
theorem exec_ldm {c : Cond} {p u hat w : Bool} {rn : Reg} {list : BitVec 16}
    (hrun : Runs (.ldm c p u hat w rn list) s m) (hop : blockLoad? s m (.ldm c p u hat w rn list) = some o)
    (hoperands : unpredictableOperands m (.ldm c p u hat w rn list) = false) (hreturn : o.CanReturn s m) :
    o.Legal s m ∧ exec (.ldm c p u hat w rn list) s = o.load m s := by
  cases hop
  obtain ⟨hblock, hform⟩ := Bool.or_eq_false_iff.1 hoperands
  have hblock : ¬ blockClash list rn = true := ne_true_of_eq_false hblock
  refine ⟨armBlock_legal (blockClash_rn hblock) fun h => (Bool.and_eq_true_iff.1 h).2,
    ((hrun.arm _).trans (if_neg hblock)).trans ?_⟩
  rw [BlockOp.load]
  by_cases huser : (hat && !list.getLsbD 15) = true
  · rw [if_pos huser, ← userBankClash_eq] at hform
    obtain ⟨rfl, hpc⟩ : hat = true ∧ list.getLsbD 15 = false := by simpa using huser
    refine ((if_pos huser).trans (if_neg (ne_true_of_eq_false hform))).trans ?_
    rw [BlockOp.restored_of_not_returns (by rw [hpc]; rfl), armBlock_eq, huser]
    rfl
  · rw [if_neg huser, ← contains_listRegs] at hform
    refine ((if_neg huser).trans (if_neg (ne_true_of_eq_false hform))).trans ?_
    cases hat with
    | false =>
      rw [BlockOp.restored_of_not_returns rfl, armBlock_eq]
      rfl
    | true =>
      have hpc : list.getLsbD 15 = true := by simpa using huser
      obtain ⟨q, hpsr, hrestored⟩ := hreturn.returnPsr (by rw [hpc]; rfl)
      rw [hrestored, armBlock_eq, hpsr, hpc]
      rfl

/-- A block load whose operands section U leaves defined, and that can restore its SPSR, is the load of its row. -/
theorem exec_blockLoad (hrun : Runs i s m) (hop : blockLoad? s m i = some o)
    (hoperands : unpredictableOperands m i = false) (hreturn : o.CanReturn s m) :
    o.Legal s m ∧ exec i s = o.load m s := by
  cases i with
  | ldm => exact exec_ldm hrun hop hoperands hreturn
  | tPop r rlist =>
    cases hop
    refine ⟨armBlock_legal (by decide) nofun, ((hrun.thumb _).trans (if_neg (lowListRegs_not_isEmpty hoperands))).trans ?_⟩
    rw [BlockOp.load, armBlock_eq, listRegs_pop]
    rfl
  | tLdmia rb rlist =>
    cases hop
    have hempty : ¬ (lowListRegs rlist none).isEmpty = true := lowListRegs_not_isEmpty (r := false) (extra := 0) hoperands
    refine ⟨armBlock_legal (loReg_ne_pc rb) nofun, ((hrun.thumb _).trans (if_neg hempty)).trans ?_⟩
    rw [BlockOp.load, armBlock_eq, ← lowListRegs_none]
    rfl
  | _ => cases hop

/-- A block store whose operands section U leaves defined is the store of its row. -/
theorem exec_blockStore (hrun : Runs i s m) (hop : blockStore? s m i = some o)
    (hoperands : unpredictableOperands m i = false) : o.Legal s m ∧ exec i s = o.store m s := by
  cases i with
  | stm c p u hat w rn list =>
    cases hop
    obtain ⟨hblock, hform⟩ := Bool.or_eq_false_iff.1 hoperands
    have hblock : ¬ blockClash list rn = true := ne_true_of_eq_false hblock
    refine ⟨armBlock_legal (blockClash_rn hblock) nofun, ((hrun.arm _).trans (if_neg hblock)).trans ?_⟩
    rw [BlockOp.store, armBlock_eq]
    cases hat with
    | true =>
      have huser : userBankClash m w = false := (userBankClash_eq m w).trans hform
      exact if_neg (ne_true_of_eq_false huser)
    | false =>
      have hbase : (w && storeBaseClash (listRegs list) rn) = false := by
        cases w with
        | false => rfl
        | true => exact storeBaseClash_eq_false hform
      exact if_neg (ne_true_of_eq_false hbase)
  | tPush r rlist =>
    cases hop
    refine ⟨armBlock_legal (by decide) nofun, ((hrun.thumb _).trans (if_neg (lowListRegs_not_isEmpty hoperands))).trans ?_⟩
    rw [BlockOp.store, armBlock_eq, listRegs_push]
    rfl
  | tStmia rb rlist =>
    cases hop
    obtain ⟨hempty, hbase⟩ := Bool.or_eq_false_iff.1 hoperands
    have hempty : (lowListRegs rlist none).isEmpty = false :=
      Bool.eq_false_iff.2 (lowListRegs_not_isEmpty (r := false) (extra := 0) hempty)
    have hlow : rlist.getLsbD rb.val = (rlist.setWidth 16).getLsbD (loReg rb).val := by
      rw [BitVec.getLsbD_setWidth, decide_eq_true (loReg rb).isLt, Bool.true_and]
      rfl
    have hclash : ¬ ((lowListRegs rlist none).isEmpty || storeBaseClash (lowListRegs rlist none) (loReg rb)) = true := by
      rw [hlow] at hbase
      rw [hempty, lowListRegs_none, storeBaseClash_eq_false hbase]
      exact Bool.false_ne_true
    refine ⟨armBlock_legal (loReg_ne_pc rb) nofun, ((hrun.thumb _).trans (if_neg hclash)).trans ?_⟩
    rw [BlockOp.store, armBlock_eq, ← lowListRegs_none]
    rfl
  | _ => cases hop

/-! ### The registers and the base of a block transfer -/

theorem BlockOp.Legal.nodup (h : o.Legal s m) : o.regs.Nodup := by
  obtain ⟨list, hlist⟩ := h.regs
  exact hlist ▸ listRegs_nodup list

theorem BlockOp.Legal.length_le (h : o.Legal s m) : o.regs.length ≤ 16 := by
  obtain ⟨list, hlist⟩ := h.regs
  exact hlist ▸ List.length_filter_le _ allRegs

/-- The write-back of a block transfer, as that of an address. -/
def BlockOp.ad (o : BlockOp) : Address := ⟨o.start, o.wb.map (o.rn, ·)⟩

theorem BlockOp.Legal.safe (h : o.Legal s m) : o.ad.Safe := by
  intro x hx
  obtain ⟨v, -, rfl⟩ := Option.map_eq_some_iff.1 hx
  exact h.rn

theorem BlockOp.ad_written (o : BlockOp) (m : Mode) : o.ad.written m = o.wbWritten m := by
  unfold Address.written BlockOp.wbWritten BlockOp.ad
  cases o.wb with
  | none => rfl
  | some v => cases hp : phys m o.rn <;> simp [physList, hp]

theorem BlockOp.ad_writeBack {v : Word} (h : o.wb = some v) : o.ad.writeBack = some (o.rn, v) := by
  rw [BlockOp.ad, h]
  rfl

/-- The logical number of a physical register. -/
def PhysReg.number : PhysReg → Reg
  | .low i => ⟨i.val, by omega⟩
  | .mid i => ⟨8 + i.val, by omega⟩
  | .midFiq i => ⟨8 + i.val, by omega⟩
  | .sp _ => Reg.sp
  | .lr _ => Reg.lr

/-- In every bank a logical register is a physical register of its own number (R23). -/
theorem number_of_phys {r : Reg} {p : PhysReg} (h : phys m r = some p) : p.number = r := by
  have hall : ∀ r : Reg, r ≠ Reg.pc → (phys m r).map PhysReg.number = some r := by cases m <;> decide
  have hr := hall r (phys_ne_pc h)
  rw [h] at hr
  exact Option.some.inj hr

/-! ### The words of a block load (R202, R203) -/

theorem map_fst_zip_eq_take {α β : Type} (as : List α) (bs : List β) : (as.zip bs).map Prod.fst = as.take bs.length := by
  induction as generalizing bs with
  | nil => simp
  | cons a as ih => cases bs <;> simp [ih]

theorem getD_mem_zip {α β : Type} {as : List α} {bs : List β} {k : Nat} (hlen : bs.length ≤ as.length)
    (hk : k < bs.length) (a : α) (b : β) : (as.getD k a, bs.getD k b) ∈ as.zip bs := by
  have hzip : k < (as.zip bs).length := by rwa [List.length_zip, Nat.min_eq_right hlen]
  have hpair := List.getElem_mem hzip
  rw [List.getElem_zip] at hpair
  simpa [hk, Nat.lt_of_lt_of_le hk hlen] using hpair

/-- Each register that got a word holds it. -/
theorem State.getPhys_loaded (u : State) (hnodup : o.regs.Nodup) {ws : List Word} (hlen : ws.length ≤ o.regs.length)
    {k : Nat} {p : PhysReg} (hk : k < ws.length) (hp : phys o.bank (o.reg k) = some p) :
    (u.writeRegs o.bank (o.regs.zip ws)).getPhys p = ws.getD k 0#32 := by
  refine State.getPhys_writeRegs_of_mem o.bank _ u ?_ (o.reg k) _ p (getD_mem_zip hlen hk 0 0#32) hp
  rw [map_fst_zip_eq_take]
  exact hnodup.sublist (List.take_sublist _ _)

/-- Only the registers that get a word change. -/
theorem Keeps.writeRegs (u : State) (bank : Mode) (regs : List Reg) (ws : List Word) :
    Keeps (physList bank (regs.take ws.length)) [] u (u.writeRegs bank (regs.zip ws)) := by
  refine Keeps.of_regs _ (fun p hp => State.getPhys_writeRegs_of_notMem bank p _ u fun x hx hphys => hp ?_) ?_
  · have hmem : x.1 ∈ regs.take ws.length := map_fst_zip_eq_take regs ws ▸ List.mem_map_of_mem hx
    exact List.mem_filterMap.2 ⟨x.1, hmem, hphys⟩
  · rw [State.writeRegs_onlyRegs]

theorem loadedPc_of_notMem {regs : List Reg} (ws : List Word) (h : Reg.pc ∉ regs) : loadedPc (regs.zip ws) = none := by
  have hnone : (regs.zip ws).find? (fun rv => rv.1 == Reg.pc) = none := List.find?_eq_none.2 fun x hx hpc =>
    h (eq_of_beq hpc ▸ (List.of_mem_zip hx).1)
  rw [loadedPc, hnone]
  rfl

/-- The word of R15 is the one at its place in the list. -/
theorem loadedPc_of_getD {regs : List Reg} {ws : List Word} (hnodup : regs.Nodup) (hlen : ws.length = regs.length) {k : Nat}
    (hk : k < regs.length) (hpc : regs.getD k 0 = Reg.pc) : loadedPc (regs.zip ws) = some (ws.getD k 0#32) := by
  induction regs generalizing ws k with
  | nil => cases hk
  | cons r regs ih =>
    obtain ⟨w, ws, rfl⟩ := List.exists_cons_of_length_eq_add_one hlen
    obtain ⟨hr, hnodup⟩ := List.nodup_cons.1 hnodup
    cases k with
    | zero =>
      obtain rfl : r = Reg.pc := hpc
      rfl
    | succ k =>
      have hk : k < regs.length := Nat.lt_of_succ_lt_succ hk
      have hne : r ≠ Reg.pc := fun h => hr (by rw [h, ← hpc]; simp [hk])
      have hrest := ih hnodup (Nat.succ.inj hlen) hk hpc
      simpa [loadedPc, hne] using hrest

/-- The first `n` words that a block load reads: from storage the bytes there, least significant first (R63). -/
def BlockOp.Reads (o : BlockOp) (s : State) (n : Nat) (ws : List Word) : Prop :=
  ∀ k, k < n → s.isDevice (o.address k) = false →
    ∀ j, j < 4 → (ws.getD k 0#32).extractLsb' (8 * j) 8 = s.mem.read ((o.address k).toNat + j)

theorem BlockOp.reads_of_readWord {n : Nat} {ws : List Word}
    (h : ∀ k, k < n → s.isDevice (o.address k) = false → ws.getD k 0#32 = s.mem.readWord (o.address k)) :
    o.Reads s n ws := by
  intro k hk hdevice j hj
  rw [h k hk hdevice]
  exact Memory.readWord_aligned_byte s.mem _ (wordAddress_mod o.start k) j hj

/-- Requests that are all answered give a word for each register. -/
theorem BlockOp.readWords_all (h : ∀ k, k < o.regs.length → s.answers false (o.address k) = true) :
    ∃ ws, s.readWords (wordAddresses o.start o.regs.length) = (ws, false) ∧ ws.length = o.regs.length ∧
      o.Reads s o.regs.length ws := by
  have hlen := wordAddresses_length o.start o.regs.length
  have haddress : ∀ k, k < o.regs.length → (wordAddresses o.start o.regs.length).getD k 0#32 = o.address k :=
    fun k hk => wordAddresses_getD o.start _ k hk
  obtain ⟨ws, hread, hws, hwords⟩ := s.readWords_all (wordAddresses o.start o.regs.length) fun k hk => by
    rw [hlen] at hk
    rw [haddress k hk, h k hk]
  rw [hlen] at hws hwords
  exact ⟨ws, hread, hws, BlockOp.reads_of_readWord fun k hk => haddress k hk ▸ hwords k hk⟩

/-- The words before the first request that answers Fault. -/
theorem BlockOp.readWords_fault {n : Nat} (hn : n < o.regs.length)
    (h : ∀ k, k < n → s.answers false (o.address k) = true) (hfault : s.answers false (o.address n) = false) :
    ∃ ws, s.readWords (wordAddresses o.start o.regs.length) = (ws, true) ∧ ws.length = n ∧ o.Reads s n ws := by
  have haddress : ∀ k, k ≤ n → (wordAddresses o.start o.regs.length).getD k 0#32 = o.address k :=
    fun k hk => wordAddresses_getD o.start _ k (Nat.lt_of_le_of_lt hk hn)
  obtain ⟨ws, hread, hws, hwords⟩ := s.readWords_fault n (wordAddresses o.start o.regs.length)
    (by rwa [wordAddresses_length]) (fun k hk => by rw [haddress k (Nat.le_of_lt hk), h k hk])
    (by rw [haddress n (Nat.le_refl n), hfault])
  exact ⟨ws, hread, hws, BlockOp.reads_of_readWord fun k hk => haddress k (Nat.le_of_lt hk) ▸ hwords k hk⟩

/-! ### Block loads (R201 to R203, R210, R265, R266) -/

/-- The end of a block load that completes: CPSR in the exception return form, then the branch or the advance. -/
def State.endLoad (u : State) (psr target : Option Word) : State :=
  let u' := psr.elim u u.setCpsr
  target.elim u'.advance u'.branchWritePC

section
variable {u : State} (psr target : Option Word)

theorem State.getPhys_endLoad (p : PhysReg) : (u.endLoad psr target).getPhys p = u.getPhys p := by
  cases psr <;> cases target <;> rfl

theorem State.endLoad_cpsr : (u.endLoad psr target).cpsr = psr.getD u.cpsr := by
  cases psr <;> cases target <;> rfl

theorem State.endLoad_pc_of_target (v : Word) : (u.endLoad psr (some v)).pc =
    if psrT (u.endLoad psr (some v)).cpsr then v &&& 0xFFFFFFFE#32 else v &&& 0xFFFFFFFC#32 := by
  cases psr <;> rfl

theorem Keeps.endLoad {written : List PhysReg} {stored : List Nat} (h : Keeps written stored s u) :
    Keeps written stored s (u.endLoad psr target) := by
  cases psr <;> cases target <;> exact { h with }

end

theorem BlockOp.load_of_answers {ws : List Word}
    (h : s.readWords (wordAddresses o.start o.regs.length) = (ws, false)) :
    o.load m s = .next (((s.applyWriteBack m o.ad).writeRegs o.bank (o.regs.zip ws)).endLoad (o.restored s m)
      (loadedPc (o.regs.zip ws))) := by
  unfold BlockOp.load loadBlock BlockOp.ad State.applyWriteBack
  rw [h]
  dsimp only
  cases o.wb <;> cases o.restored s m <;> cases loadedPc (o.regs.zip ws) <;> rfl

theorem BlockOp.load_of_fault {ws : List Word}
    (h : s.readWords (wordAddresses o.start o.regs.length) = (ws, true)) :
    o.load m s = .next (((s.writeRegs o.bank (o.regs.zip ws)).writeReg m o.rn (o.wb.getD o.base)).raise .dataAbort s.pc) := by
  unfold BlockOp.load loadBlock
  rw [h]
  rfl

/-- Settles O25: the words read, then write-back, registers and end. -/
theorem blockLoadCompletes : Obligations.BlockLoadCompletes := by
  unfold Obligations.BlockLoadCompletes
  intro i s m o hrun hop hoperands hanswers hreturn
  obtain ⟨hlegal, hexec⟩ := exec_blockLoad hrun hop hoperands hreturn
  obtain ⟨ws, hread, hlen, hwords⟩ := BlockOp.readWords_all hanswers
  obtain ⟨hbase, -, -⟩ := State.applyWriteBack_spec m hlegal.safe s
  have hregs := Keeps.writeRegs (s.applyWriteBack m o.ad) o.bank o.regs ws
  have hbody : Body s ((s.applyWriteBack m o.ad).writeRegs o.bank (o.regs.zip ws)) :=
    (Body.applyWriteBack hlegal.safe).trans (Body.writeRegs _ _ _)
  rw [hlen, List.take_length] at hregs
  have hkeeps := (Keeps.applyWriteBack hlegal.safe).trans hregs
  rw [BlockOp.ad_written] at hkeeps
  rw [BlockOp.load_of_answers hread] at hexec
  refine ⟨_, (ws.getD · 0#32), hexec, hwords, fun k p hk hp => ?_, fun w p hwb hrn hp => ?_, fun ho => ?_,
    fun e ho hm => ?_, fun hpc => ?_, fun k hk hpc => ?_, hkeeps.endLoad _ _⟩
  · rw [State.getPhys_endLoad]
    exact State.getPhys_loaded _ hlegal.nodup (Nat.le_of_eq hlen) (hlen.symm ▸ hk) hp
  · rw [State.getPhys_endLoad, hregs.regs p fun hmem => ?_]
    · exact hbase o.rn w p (BlockOp.ad_writeBack hwb) hp
    · obtain ⟨r, hr, hphys⟩ := List.mem_filterMap.1 hmem
      exact hrn (((number_of_phys hp).symm.trans (number_of_phys hphys)) ▸ hr)
  · rw [State.endLoad_cpsr, BlockOp.restored_of_not_returns ho, hbody.cpsr]
    rfl
  · rw [State.endLoad_cpsr, BlockOp.restored_of_returns ho hm]
    rfl
  · have ho : o.returns = false := Bool.eq_false_iff.2 fun h => hpc (hlegal.returns h)
    rw [loadedPc_of_notMem ws hpc, BlockOp.restored_of_not_returns ho, ← hrun.isz_eq, ← hbody.isz, ← hbody.pc]
    rfl
  · rw [loadedPc_of_getD hlegal.nodup hlen hk hpc]
    exact State.endLoad_pc_of_target _ _

/-- Settles O28: the words before the fault, their registers and the base of the current mode, then the entry. -/
theorem blockLoadAborts : Obligations.BlockLoadAborts := by
  unfold Obligations.BlockLoadAborts
  intro i s m o n hrun hop hoperands hn hanswers hfault hreturn
  obtain ⟨hlegal, hexec⟩ := exec_blockLoad hrun hop hoperands hreturn
  obtain ⟨ws, hread, hlen, hwords⟩ := BlockOp.readWords_fault hn hanswers hfault
  obtain ⟨q, hq⟩ := phys_isSome m hlegal.rn
  have hregs := Keeps.writeRegs s o.bank o.regs ws
  have hbody : Body s ((s.writeRegs o.bank (o.regs.zip ws)).setPhys q (o.wb.getD o.base)) :=
    (Body.writeRegs _ _ _).trans (Body.setPhys _ _ _)
  rw [BlockOp.load_of_fault hread, State.writeReg_some _ hq] at hexec
  rw [hlen] at hregs
  have hkeeps := hregs.setPhys q (o.wb.getD o.base)
  refine ⟨_, _, hexec, fun k p hk hdevice hp hne j hj => ?_, fun p hp => ?_, hbody.pc, hbody.cpsr,
    { hkeeps with regs := fun p hp => ?_ }, entered_raise .dataAbort _ s.pc⟩
  · have hpq : p ≠ q := fun h => hne (h ▸ hq)
    rw [State.getPhys_setPhys, if_neg hpq,
      State.getPhys_loaded s hlegal.nodup (by omega) (hlen.symm ▸ hk) hp, hwords k hk hdevice j hj]
  · obtain rfl : p = q := Option.some.inj (hp.symm.trans hq)
    rw [State.getPhys_setPhys, if_pos rfl]
  · obtain ⟨hpregs, hpbase⟩ := not_or.1 (mt List.mem_append.2 hp)
    rw [State.getPhys_setPhys]
    by_cases hpq : p = q
    · subst hpq
      have hwb : o.wb = none := by
        cases hwb : o.wb with
        | none => rfl
        | some v => exact absurd (by simp [BlockOp.wbWritten, hwb, physList, hq]) hpbase
      rw [if_pos rfl, hwb, Option.getD_none, hlegal.base, State.x_some hq]
    · rw [if_neg hpq, hregs.regs p hpregs]

/-! ### Block stores (R201, R202, R204, R210, R265, R266) -/

/-- What the first `n` write requests of a block store and its write-back leave. -/
structure BlockOp.Stored (o : BlockOp) (m : Mode) (n : Nat) (s t : State) : Prop where
  words : ∀ k, k < n → s.isDevice (o.address k) = false →
    ∀ j, j < 4 → t.mem.read ((o.address k).toNat + j) = (s.xLate o.bank (o.reg k)).extractLsb' (8 * j) 8
  base  : ∀ w p, o.wb = some w → phys m o.rn = some p → t.getPhys p = w
  body  : Body s t
  keeps : Keeps (o.wbWritten m) (o.cells s n) { s with deviceWrites := o.recorded s n } t

theorem BlockOp.store_of_writes {u : State} {fault : Bool}
    (h : s.writeWords ((wordAddresses o.start o.regs.length).zip (o.regs.map (s.xLate o.bank))) = (u, fault)) :
    o.store m s = .next (if fault then (u.applyWriteBack m o.ad).raise .dataAbort s.pc
      else (u.applyWriteBack m o.ad).advance) := by
  unfold BlockOp.store storeBlock BlockOp.ad State.applyWriteBack
  rw [h]
  cases o.wb <;> rfl

/-- A block store up to its n-th request, if there is one the first that answers Fault. -/
theorem BlockOp.store_stored (hlegal : o.Legal s m) (hwf : s.mem.wf = true) {n : Nat} (hn : n ≤ o.regs.length)
    (haccepts : ∀ k, k < n → s.accepts (o.address k) = true)
    (hfault : n < o.regs.length → s.accepts (o.address n) = false) :
    ∃ u, o.Stored m n s u ∧
      o.store m s = .next (if n < o.regs.length then u.raise .dataAbort s.pc else u.advance) := by
  have hlength : (o.regs.map (s.xLate o.bank)).length = o.regs.length := List.length_map _
  have hvalue : ∀ k, k < n → (o.regs.map (s.xLate o.bank)).getD k 0#32 = s.xLate o.bank (o.reg k) := fun k hk => by
    have hk' : k < o.regs.length := Nat.lt_of_lt_of_le hk hn
    simp [BlockOp.reg, hk']
  have hfew := hlegal.length_le
  obtain ⟨u, hwrite, hu, hmem, hwords, hrest⟩ := s.writeWords_ascending hwf o.start n (o.regs.map (s.xLate o.bank))
    (by omega) (by omega) o.address (fun _ => rfl) haccepts (by rwa [hlength])
  have hrecord : s.recordedWords n o.address ((o.regs.map (s.xLate o.bank)).getD · 0#32) = o.recorded s n :=
    State.recordedWords_congr s (fun _ _ => rfl) hvalue
  rw [hrecord] at hu
  rw [hlength] at hwrite
  have hkeeps : Keeps [] (o.cells s n) { s with deviceWrites := o.recorded s n } u := by
    rw [hu]
    exact { Keeps.refl { s with deviceWrites := o.recorded s n } with mem := hrest }
  have hbody : Body s u := Body.of_onlyMem ⟨by rw [hu], fun _ => hmem⟩
  obtain ⟨hbase, -, -⟩ := State.applyWriteBack_spec m hlegal.safe u
  have hback : Keeps (o.ad.written m) [] u (u.applyWriteBack m o.ad) := Keeps.applyWriteBack hlegal.safe
  refine ⟨u.applyWriteBack m o.ad, ⟨fun k hk hdevice j hj => ?_, fun w p hwb hp => ?_,
    hbody.trans (Body.applyWriteBack hlegal.safe), ?_⟩, ?_⟩
  · rw [hback.mem _ List.not_mem_nil, hwords k hk hdevice j hj, hvalue k hk]
  · exact hbase o.rn w p (BlockOp.ad_writeBack hwb) hp
  · have hchain := hkeeps.trans hback
    rwa [List.append_nil, BlockOp.ad_written] at hchain
  · rw [BlockOp.store_of_writes hwrite]
    simp only [decide_eq_true_eq]

/-- Settles O27: all requests complete. -/
theorem blockStoreCompletes : Obligations.BlockStoreCompletes := by
  unfold Obligations.BlockStoreCompletes
  intro i s m o hrun hop hoperands haccepts
  obtain ⟨hlegal, hexec⟩ := exec_blockStore hrun hop hoperands
  have hlast : ¬ o.regs.length < o.regs.length := Nat.lt_irrefl _
  obtain ⟨u, hu, hstore⟩ := BlockOp.store_stored hlegal hrun.inv.mem (Nat.le_refl _) haccepts fun h => absurd h hlast
  rw [hstore, if_neg hlast] at hexec
  exact ⟨_, hexec, hu.words, hu.base, hu.body.cpsr, by rw [State.advance_pc, hu.body.pc, hu.body.isz, hrun.isz_eq],
    hu.keeps.advance⟩

/-- Settles O29: the requests before the fault complete, and the entry follows the write-back. -/
theorem blockStoreAborts : Obligations.BlockStoreAborts := by
  unfold Obligations.BlockStoreAborts
  intro i s m o n hrun hop hoperands hn haccepts hfault
  obtain ⟨hlegal, hexec⟩ := exec_blockStore hrun hop hoperands
  obtain ⟨u, hu, hstore⟩ := BlockOp.store_stored hlegal hrun.inv.mem (Nat.le_of_lt hn) haccepts fun _ => hfault
  rw [hstore, if_pos hn] at hexec
  exact ⟨u, _, hexec, hu.words, hu.base, hu.body.pc, hu.body.cpsr, hu.keeps, entered_raise .dataAbort u s.pc⟩

end

end Sys2Proof.Machine
end

section
/-! PROOFS. The family of `44_branch.md`. A target with an offset is one exact sum modulo 2^32 (`add_signExtend_shiftLeft`), and
in ARM state it is aligned as pc is, so BranchWritePC drops nothing of it. BX of either state is `branchExchange`, which has one
equation for each value of the two low bits of its target. -/
namespace Sys2Proof.Machine

variable {i : Instr} {s : State} {m : Mode}

/-! ### Branches with an offset (R220, R221) -/

/-- A signed offset in units of 2^n bytes, added to a base, is exact modulo 2^32 (R105). -/
theorem add_signExtend_shiftLeft {w : Nat} (base d : Word) (offset : BitVec w) (n : Nat) :
    base + d + offset.signExtend 32 <<< n = BitVec.ofInt 32 (base.toNat + d.toNat + (2 ^ n : Nat) * offset.toInt) := by
  have hshift : offset.signExtend 32 <<< n = BitVec.ofInt 32 ((2 ^ n : Nat) * offset.toInt) := by
    rw [shiftLeft_eq_ofNat, BitVec.ofNat_mul, BitVec.ofNat_toNat, BitVec.setWidth_eq, BitVec.mul_comm, BitVec.ofInt_mul,
      BitVec.ofInt_natCast]
    rfl
  rw [hshift, BitVec.ofInt_add, BitVec.ofInt_add, BitVec.ofInt_natCast, BitVec.ofInt_natCast, BitVec.ofNat_toNat,
    BitVec.ofNat_toNat, BitVec.setWidth_eq, BitVec.setWidth_eq]

theorem branchTarget_eq_ofInt (offset24 : BitVec 24) (s : State) :
    branchTarget offset24 s = BitVec.ofInt 32 (s.pc.toNat + 8 + 4 * offset24.toInt) :=
  add_signExtend_shiftLeft s.pc 8#32 offset24 2

theorem branchTarget_mod (offset24 : BitVec 24) (hpc : s.pc.toNat % 4 = 0) :
    (branchTarget offset24 s).toNat % 4 = 0 := by
  rw [branchTarget_eq_ofInt, BitVec.toNat_ofInt]
  omega

/-- In ARM state BranchWritePC keeps all of a word address (R135). -/
theorem State.branchWritePC_of_word {v : Word} (hT : psrT s.cpsr = false) (hv : v.toNat % 4 = 0) :
    s.branchWritePC v = { s with pc := v } := by
  rw [State.branchWritePC, hT, if_neg Bool.false_ne_true, wordAligned_of_mod hv]
  rfl

/-- Settles O31: behind the condition both branch to the same target, BL from the state in which R14 is written. -/
theorem branch : Obligations.Branch := by
  unfold Obligations.Branch
  intro c offset24 s m
  refine ⟨fun hm hT hc => ?_, fun hrun => ?_, fun hrun => ?_⟩
  · have hfails := State.advance_arm hT ▸ armInstr_of_condition_fails hm hc
    exact ⟨hfails _, hfails _⟩
  · have htarget := branchTarget_mod offset24 hrun.pc_mod
    rw [← branchTarget_eq_ofInt, ← State.branchWritePC_of_word hrun.state htarget]
    exact hrun.arm _
  · have htarget := branchTarget_mod offset24 hrun.pc_mod
    obtain ⟨p, hp⟩ := phys_isSome m (r := Reg.lr) (by decide)
    have hexec : exec (.bl c offset24) s =
        .next ((s.writeReg m Reg.lr (s.pc + 4#32)).branchWritePC (branchTarget offset24 s)) := hrun.arm _
    have hwritten : psrT (s.setPhys p (s.pc + 4#32)).cpsr = false := hrun.state
    rw [State.writeReg_some _ hp, State.branchWritePC_of_word hwritten htarget] at hexec
    refine ⟨_, p, hexec, hp, ?_, branchTarget_eq_ofInt offset24 s, rfl, { (Keeps.refl s).setPhys p (s.pc + 4#32) with }⟩
    exact (s.getPhys_setPhys p p _).trans (if_pos rfl)

/-! ### Branch and exchange (R222, R256) -/

/-- What BX leaves: the state bit `thumb`, and pc at `v`. -/
def State.exchange (s : State) (thumb : Bool) (v : Word) : State := (s.setCpsr (setT s.cpsr thumb)).setPc v

theorem Keeps.exchange (s : State) (thumb : Bool) (v : Word) : Keeps [] [] s (s.exchange thumb v) := { Keeps.refl s with }

theorem State.exchange_psrT (thumb : Bool) (v : Word) : psrT (s.exchange thumb v).cpsr = thumb := psrT_setT s.cpsr thumb

theorem State.exchange_getLsbD (thumb : Bool) (v : Word) {k : Nat} (hk : k ≠ 5) :
    (s.exchange thumb v).cpsr.getLsbD k = s.cpsr.getLsbD k :=
  (setT_bit s.cpsr thumb k).trans (if_neg hk)

theorem getLsbD_one_iff (t : Word) : t.getLsbD 1 = true ↔ t.toNat / 2 % 2 = 1 := by
  rw [BitVec.getLsbD, Nat.testBit_succ, Nat.testBit_zero, decide_eq_true_iff]

section
variable {t : Word}

theorem branchExchange_of_odd (ht : t.toNat % 2 = 1) :
    branchExchange t s = .next (s.exchange true (t &&& 0xFFFFFFFE#32)) :=
  if_pos ((odd_iff t).2 (by omega))

theorem branchExchange_of_word (ht : t.toNat % 4 = 0) : branchExchange t s = .next (s.exchange false t) := by
  have hbit0 : ¬ t.getLsbD 0 = true := by rw [odd_iff]; omega
  have hbit1 : ¬ t.getLsbD 1 = true := by rw [getLsbD_one_iff]; omega
  rw [branchExchange, if_neg hbit0, if_neg hbit1, wordAligned_of_mod ht]
  rfl

theorem branchExchange_of_halfword (ht : t.toNat % 4 = 2) :
    branchExchange t s = .fault (.violation .unpredictable) := by
  have hbit0 : ¬ t.getLsbD 0 = true := by rw [odd_iff]; omega
  have hbit1 : t.getLsbD 1 = true := (getLsbD_one_iff t).2 (by omega)
  rw [branchExchange, if_neg hbit0, if_pos hbit1]
  rfl

end

/-- BX of ARM state to R15 stops (U7). -/
theorem exec_bx_pc {r : Reg} (hi : (∃ c, i = .bx c r) ∨ i = .tBx r) (hrun : Runs i s m) (harm : i.isThumb = false)
    (hr : r = 15) : exec i s = .fault (.violation .unpredictable) := by
  obtain ⟨c, rfl⟩ | rfl := hi
  · exact (hrun.arm _).trans (if_pos hr)
  · cases harm

/-- Every other BX of either state is the exchange to the value of its register. -/
theorem exec_bx {r : Reg} (hi : (∃ c, i = .bx c r) ∨ i = .tBx r) (hrun : Runs i s m) (hr : i.isThumb = true ∨ r ≠ 15) :
    exec i s = branchExchange (s.x m r) s := by
  obtain ⟨c, rfl⟩ | rfl := hi
  · exact (hrun.arm _).trans (if_neg (hr.resolve_left Bool.false_ne_true))
  · exact hrun.thumb _

/-- Settles O32: the low bits of the target choose the equation of the exchange. -/
theorem branchExchange_outcomes : Obligations.BranchExchange := by
  unfold Obligations.BranchExchange
  intro i r s m hi hrun
  refine ⟨exec_bx_pc hi hrun, fun hr ht => ?_, fun hr ht => ?_, fun ht => ?_⟩
  · refine ⟨_, (exec_bx hi hrun hr).trans (branchExchange_of_odd ht), ?_, State.exchange_psrT _ _,
      fun k => State.exchange_getLsbD _ _, Keeps.exchange _ _ _⟩
    have hpc : (s.x m r &&& 0xFFFFFFFE#32).toNat = 2 * ((s.x m r).toNat / 2) := halfAligned_toNat _
    exact hpc.trans (by omega)
  · exact ⟨_, (exec_bx hi hrun hr).trans (branchExchange_of_word ht), rfl, State.exchange_psrT _ _,
      fun k => State.exchange_getLsbD _ _, Keeps.exchange _ _ _⟩
  · by_cases hr : i.isThumb = true ∨ r ≠ 15
    · exact (exec_bx hi hrun hr).trans (branchExchange_of_halfword ht)
    · obtain ⟨harm, hr⟩ := not_or.1 hr
      exact exec_bx_pc hi hrun (Bool.eq_false_iff.2 harm) (Decidable.not_not.1 hr)

end Sys2Proof.Machine
end

section
/-! PROOFS. The family of `45_status_swi.md`. An MRS is its answer from the status register it reads (`exec_mrs_ok`,
`exec_mrs_error`). An MSR of either operand form is `writePsr` of its operand (`exec_msr`), which has one equation for each of
its outcomes; what it leaves of a status register is said bit by bit (`writtenPsr_bit`), and the mode field and the state bit
of the new CPSR follow from that. -/
namespace Sys2Proof.Machine

variable {i : Instr} {s : State} {m : Mode}

/-! ### SWI (R233, R268, R312) -/

/-- The SoftwareInterrupt entry returns past the instruction that takes it (R305, R306). -/
theorem Runs.entered_softwareInterrupt (hrun : Runs i s m) :
    Entered .softwareInterrupt (s.pc + i.size) s (s.raise .softwareInterrupt s.pc) := by
  have hentry := entered_raise .softwareInterrupt s s.pc
  rwa [show s.returnAddress .softwareInterrupt s.pc = s.pc + s.isz from rfl, hrun.isz_eq] at hentry

/-- Settles O38: in either state the meaning is that entry. -/
theorem softwareInterrupt : Obligations.SoftwareInterrupt := by
  unfold Obligations.SoftwareInterrupt
  intro i s m hrun hswi
  refine ⟨_, ?_, hrun.entered_softwareInterrupt⟩
  obtain ⟨c, comment24, rfl⟩ | ⟨value8, rfl⟩ := hswi
  · exact hrun.arm _
  · exact hrun.thumb _

/-! ### MRS (R230) -/

/-- The SPSR an instruction reads is that of its mode, once it is defined (R37). -/
theorem State.readSpsr_mode (s : State) (e : ExcMode) :
    s.readSpsr e.mode = if s.spsrDef.get e then .ok (s.spsr.get e) else .error .undefinedSPSR := by
  simp only [State.readSpsr, Mode.saved_eq_some.2 (rfl : e.mode = e.mode)]

theorem State.readSpsr_noSPSR (h : m = .usr ∨ m = .sys) : s.readSpsr m = .error .noSPSR := by
  simp only [State.readSpsr, Mode.saved_eq_none.2 h]

/-- The status register that MRS reads. -/
def State.readPsr (s : State) (m : Mode) : Psr → Except Violation Word
  | .cpsr => .ok s.cpsr
  | .spsr => s.readSpsr m

section
variable {c : Cond} {psr : Psr} {rd : Reg} (hrun : Runs (.mrs c psr rd) s m) (hrd : rd ≠ 15)
include hrun hrd

theorem exec_mrs_error {v : Violation} (hread : s.readPsr m psr = .error v) :
    exec (.mrs c psr rd) s = .fault (.violation v) := by
  refine (hrun.arm _).trans ((if_neg hrd).trans ?_)
  cases psr with
  | cpsr => cases hread
  | spsr => simp only [show s.readSpsr m = .error v from hread]; rfl

/-- MRS writes what it reads to Rd and goes on. -/
theorem exec_mrs_ok {v : Word} (hread : s.readPsr m psr = .ok v) : ∃ t p, exec (.mrs c psr rd) s = .next t ∧
    phys m rd = some p ∧ t.getPhys p = v ∧ t.cpsr = s.cpsr ∧ t.pc = s.pc + 4#32 ∧ Keeps [p] [] s t := by
  obtain ⟨p, hp⟩ := phys_isSome m hrd
  have hexec : exec (.mrs c psr rd) s = .next (s.writeReg m rd v).advance := by
    refine (hrun.arm _).trans ((if_neg hrd).trans ?_)
    cases psr with
    | cpsr => cases hread; rfl
    | spsr => simp only [show s.readSpsr m = .ok v from hread]
  rw [State.writeReg_some v hp] at hexec
  refine ⟨_, p, hexec, hp, ?_, rfl, ?_, ((Keeps.refl s).setPhys p v).advance⟩
  · rw [State.getPhys_advance, State.getPhys_setPhys, if_pos rfl]
  · rw [State.advance_pc, State.setPhys_pc, State.isz_setPhys, hrun.isz_eq]
    rfl

end

/-- Settles O35: the status register that is read, or why it cannot be. -/
theorem statusRead : Obligations.StatusRead := by
  unfold Obligations.StatusRead
  intro c psr rd s m hrun
  refine ⟨fun hrd => (hrun.arm _).trans (if_pos hrd), ?_, ?_, ?_, ?_⟩
  · rintro hrd rfl
    exact exec_mrs_ok hrun hrd rfl
  · rintro e hrd rfl rfl hdef
    exact exec_mrs_ok hrun hrd ((s.readSpsr_mode e).trans (if_pos hdef))
  · rintro e hrd rfl rfl hdef
    exact exec_mrs_error hrun hrd ((s.readSpsr_mode e).trans (if_neg (Bool.eq_false_iff.1 hdef)))
  · rintro hrd rfl hm
    exact exec_mrs_error hrun hrd (State.readSpsr_noSPSR hm)

/-! ### The status register that MSR leaves (R231, R232) -/

/-- A status register `old` after an MSR of `operand` to the fields of `mask`. -/
def writtenPsr (old operand : Word) (mask : BitVec 4) : Word := mergePsr old operand (writeMask mask)

section
variable (old operand : Word) (mask : BitVec 4)

/-- MSR takes the defined bits of the selected fields from its operand and leaves the others. -/
theorem writtenPsr_bit {k : Nat} (hk : k < 32) : (writtenPsr old operand mask).getLsbD k =
    if mask.getLsbD (k / 8) && (decide (27 ≤ k) || decide (k < 8)) then operand.getLsbD k else old.getLsbD k := by
  rw [writtenPsr, mergePsr_bit _ _ _ _ hk, writeMask_bit _ _ hk]

/-- Bits 7 to 0 are the control field, which bit 0 of the mask selects. -/
theorem writtenPsr_control_bit {k : Nat} (hk : k < 8) :
    (writtenPsr old operand mask).getLsbD k = (if mask.getLsbD 0 then operand else old).getLsbD k := by
  rw [writtenPsr_bit _ _ _ (by omega), Nat.div_eq_of_lt hk, decide_eq_true hk, Bool.or_true, Bool.and_true,
    apply_ite (BitVec.getLsbD · k)]

theorem psrT_writtenPsr : psrT (writtenPsr old operand mask) = psrT (if mask.getLsbD 0 then operand else old) :=
  writtenPsr_control_bit old operand mask (by decide)

theorem psrM_writtenPsr : psrM (writtenPsr old operand mask) = psrM (if mask.getLsbD 0 then operand else old) := by
  refine BitVec.eq_of_getLsbD_eq fun k hk => ?_
  simp only [psrM, BitVec.getLsbD_extractLsb', Nat.zero_add]
  rw [writtenPsr_control_bit _ _ _ (by omega)]

end

theorem Mode.ofBits_eq_none {b : BitVec 5} : Mode.ofBits b = none ↔ ∀ m, b ≠ Mode.bits m :=
  Option.eq_none_iff_forall_ne_some.trans (forall_congr' fun _ => not_congr Mode.ofBits_eq_some)

theorem Saved.set_get {α : Type} (b : Saved α) (e : ExcMode) : b.set e (b.get e) = b := by
  cases e <;> rfl

/-! ### MSR of either operand form (R231, R232) -/

/-- `i` is an MSR to `psr` whose operand is `operand`. -/
def IsMsr (psr : Psr) (mask : BitVec 4) (operand : Word) (s : State) (m : Mode) (i : Instr) : Prop :=
  (∃ c rm, i = .msrR c psr mask rm ∧ rm ≠ 15 ∧ operand = s.x m rm) ∨
    ∃ c rot imm8, i = .msrI c psr mask rot imm8 ∧ operand = (imm8.setWidth 32 : Word).rotateRight (2 * rot.toNat)

section
variable {psr : Psr} {mask : BitVec 4} {operand : Word}

theorem IsMsr.isThumb (hmsr : IsMsr psr mask operand s m i) : i.isThumb = false := by
  obtain ⟨c, rm, rfl, -, -⟩ | ⟨c, rot, imm8, rfl, -⟩ := hmsr <;> rfl

theorem exec_msr (hrun : Runs i s m) (hmsr : IsMsr psr mask operand s m i) :
    exec i s = writePsr m psr mask operand s := by
  obtain ⟨c, rm, rfl, hrm, rfl⟩ | ⟨c, rot, imm8, rfl, rfl⟩ := hmsr
  · exact (hrun.arm _).trans (if_neg hrm)
  · exact hrun.arm _

theorem writePsr_cpsr_illegalMode (hmode : ∀ m', psrM (writtenPsr s.cpsr operand mask) ≠ Mode.bits m') :
    writePsr m .cpsr mask operand s = .fault (.violation .illegalMode) :=
  if_pos (Option.isNone_iff_eq_none.2 (Mode.ofBits_eq_none.2 hmode))

/-- Behind the test of the mode field MSR to CPSR tests the state bit (R232). -/
theorem writePsr_cpsr_legalMode {m' : Mode} (hmode : psrM (writtenPsr s.cpsr operand mask) = m'.bits) :
    writePsr m .cpsr mask operand s =
      if psrT (writtenPsr s.cpsr operand mask) != psrT s.cpsr then .fault (.violation .unpredictable)
      else .next (s.setCpsr (writtenPsr s.cpsr operand mask)).advance :=
  if_neg fun hnone => Mode.ofBits_eq_none.1 (Option.isNone_iff_eq_none.1 hnone) m' hmode

theorem writePsr_spsr_noSPSR (h : m = .usr ∨ m = .sys) :
    writePsr m .spsr mask operand s = .fault (.violation .noSPSR) := by
  simp only [writePsr, Mode.saved_eq_none.2 h]
  rfl

/-- MSR to an SPSR writes it, and defines it when the f and the c field are both selected (R37). -/
theorem writePsr_spsr_mode (e : ExcMode) : writePsr e.mode .spsr mask operand s =
    .next ({ s with
      spsr := s.spsr.set e (writtenPsr (s.spsr.get e) operand mask),
      spsrDef := s.spsrDef.set e (s.spsrDef.get e || (mask.getLsbD 3 && mask.getLsbD 0)) } : State).advance := by
  simp only [writePsr, Mode.saved_eq_some.2 (rfl : e.mode = e.mode)]
  cases mask.getLsbD 3 && mask.getLsbD 0 with
  | true => rw [Bool.or_true]; rfl
  | false => rw [Bool.or_false, Saved.set_get]; rfl

end

/-- Settles O36: the mode field and the state bit of the new CPSR choose the outcome. -/
theorem statusWriteCpsr : Obligations.StatusWriteCpsr := by
  unfold Obligations.StatusWriteCpsr
  intro i mask operand s m hrun hmsr
  have hs : psrT s.cpsr = false := hrun.state.trans (IsMsr.isThumb hmsr)
  rw [exec_msr hrun hmsr]
  refine ⟨fun hmode hbit => ?_, fun hc hmode => ?_, fun hc hmode hbit => ?_⟩
  · have hT : psrT (writtenPsr s.cpsr operand mask) = false := by
      rw [psrT_writtenPsr]
      split
      · exact hbit ‹_›
      · exact hs
    obtain ⟨m', hM⟩ : ∃ m', psrM (writtenPsr s.cpsr operand mask) = Mode.bits m' := by
      rw [psrM_writtenPsr]
      split
      · exact hmode ‹_›
      · exact ⟨m, Mode.ofBits_eq_some.1 hrun.mode⟩
    refine ⟨_, (writePsr_cpsr_legalMode hM).trans (if_neg fun hne => bne_iff_ne.1 hne (hT.trans hs.symm)),
      fun k => writtenPsr_bit s.cpsr operand mask, ?_, { Keeps.refl s with }⟩
    exact congrArg State.pc (State.advance_arm (s := s.setCpsr _) hT)
  · refine writePsr_cpsr_illegalMode ?_
    rwa [psrM_writtenPsr, if_pos hc]
  · obtain ⟨m', hm'⟩ := hmode
    have hM : psrM (writtenPsr s.cpsr operand mask) = m'.bits := by rwa [psrM_writtenPsr, if_pos hc]
    have hT : psrT (writtenPsr s.cpsr operand mask) = true := by rwa [psrT_writtenPsr, if_pos hc]
    rw [writePsr_cpsr_legalMode hM, hT, hs]
    rfl

/-- Settles O37: one SPSR is written, and `Saved` says what is read of it and of the others. -/
theorem statusWriteSpsr : Obligations.StatusWriteSpsr := by
  unfold Obligations.StatusWriteSpsr
  intro i mask operand s m hrun hmsr
  rw [exec_msr hrun hmsr]
  refine ⟨writePsr_spsr_noSPSR, ?_⟩
  rintro e rfl
  refine ⟨_, writePsr_spsr_mode e, fun k hk => ?_, ?_, fun e' he' => ⟨?_, ?_⟩, ?_⟩
  · rw [State.advance_spsr, Saved.get_set, if_pos rfl, writtenPsr_bit _ _ _ hk]
  · rw [State.advance_spsrDef, Saved.get_set, if_pos rfl]
  · rw [State.advance_spsr, Saved.get_set, if_neg he']
  · rw [State.advance_spsrDef, Saved.get_set, if_neg he']
  · exact State.advance_arm (hrun.state.trans (IsMsr.isThumb hmsr))

end Sys2Proof.Machine
end

section
/-! PROOFS. The family of `46_coprocessor.md`. A coprocessor instruction that runs is its first request (`exec_eq_askCop`), whose
answer is the UndefinedInstruction entry or what the instruction goes on with. LDC and STC then transfer words at
`copWordAddress`: `readCopWords_all` and `readCopWords_fault` say what LDC reads, `storeCop_stored` what STC leaves up to any
of its requests. -/
namespace Sys2Proof.Machine

variable {i : Instr} {s : State} {m : Mode} {q : CopRequest} {first : Word} {more : List Word} {rest : List CopAnswer}

/-! ### The first request and its answer (R240, R241) -/

theorem State.copAsk_of_cons {a : CopAnswer} (h : s.copAnswers = a :: rest) :
    s.copAsk q = { s with copAnswers := rest, copRequests := q :: s.copRequests } := by
  rw [State.copAsk, h]
  rfl

theorem askCop_of_accepted (h : s.copAnswers = .accepted first more :: rest) (body : Word → List Word → State → Result) :
    askCop q s body = body first more (s.copAsk q) := by
  simp only [askCop, State.copAnswer, h, List.headD_cons]

theorem askCop_of_absent (h : s.copAnswers = [] ∨ ∃ rest, s.copAnswers = .absent :: rest)
    (body : Word → List Word → State → Result) :
    askCop q s body = .next ((s.copAsk q).raise .undefinedInstruction s.pc) := by
  have habsent : s.copAnswer = .absent := by
    obtain hempty | ⟨rest, hrest⟩ := h
    · rw [State.copAnswer, hempty]; rfl
    · rw [State.copAnswer, hrest]; rfl
  simp only [askCop, habsent]

/-- A coprocessor instruction behind its condition and its operands: all five are of ARM state and begin with a request. -/
theorem exec_eq_askCop (hrun : Runs i s m) (hq : copRequest? s m i = some q) (hoperands : unpredictableOperands m i = false) :
    i.isThumb = false ∧ ∃ body, exec i s = askCop q s body := by
  cases i with
  | cdp | mcr | mrc => cases hq; exact ⟨rfl, _, hrun.arm _⟩
  | ldc | stc => cases hq; exact ⟨rfl, _, (hrun.arm _).trans (if_neg (ne_true_of_eq_false hoperands))⟩
  | _ => cases hq

/-- Settles O40: the entry is taken from the state that the request leaves. -/
theorem coprocessorAbsent : Obligations.CoprocessorAbsent := by
  unfold Obligations.CoprocessorAbsent
  intro i s m q hrun hq hoperands habsent
  obtain ⟨harm, body, hexec⟩ := exec_eq_askCop hrun hq hoperands
  have hisz : s.isz = 4#32 := hrun.isz_eq.trans (if_neg (ne_true_of_eq_false harm))
  rw [askCop_of_absent habsent] at hexec
  refine ⟨_, hexec, ?_⟩
  rw [← hisz, List.drop_one]
  exact entered_raise .undefinedInstruction (s.copAsk q) s.pc

/-! ### Operations and register transfers (R242 to R244) -/

/-- Settles O41: CDP and MCR go on with the advance alone. -/
theorem coprocessorOperation : Obligations.CoprocessorOperation := by
  unfold Obligations.CoprocessorOperation
  intro i s m q first more rest hrun hq hi hanswer
  obtain ⟨harm, hexec⟩ : i.isThumb = false ∧ exec i s = .next (s.copAsk q).advance := by
    obtain ⟨c, opc1, crn, crd, cp, opc2, crm, rfl⟩ | ⟨c, opc1, crn, rd, cp, opc2, crm, rfl⟩ := hi
    all_goals
      cases hq
      exact ⟨rfl, (hrun.arm _).trans (askCop_of_accepted hanswer _)⟩
  rw [hexec, State.advance_arm (s := s.copAsk q) (hrun.state.trans harm), State.copAsk_of_cons hanswer]

/-- New flags leave the state bit, so ISZ is that of the instruction. -/
theorem isz_setCpsr_mrcFlags (u : State) (r : Word) : (u.setCpsr (mrcFlags u.cpsr r)).isz = u.isz := by
  simp only [State.isz, State.setCpsr_cpsr, mrcFlags, t_of_low (setNZCV_low u.cpsr _ _ _ _)]

theorem State.writeDest_of_ne {u : State} {r : Reg} (m : Mode) (v : Word) (hr : r ≠ Reg.pc) :
    u.writeDest m r v = (u.writeReg m r v).advance := if_neg hr

/-- MRC that a coprocessor accepts goes on with its first word (R244). -/
theorem exec_mrc {c : Cond} {opc1 : BitVec 3} {crn : BitVec 4} {rd : Reg} {cp : BitVec 4} {opc2 : BitVec 3} {crm : BitVec 4}
    (hrun : Runs (.mrc c opc1 crn rd cp opc2 crm) s m) (hanswer : s.copAnswers = .accepted first more :: rest) {u : State}
    (hu : u = s.copAsk (.moveFrom cp opc1 crn crm opc2)) : exec (.mrc c opc1 crn rd cp opc2 crm) s =
      if rd = Reg.pc then .next (u.setCpsr (mrcFlags u.cpsr first)).advance else .next (u.writeReg m rd first).advance := by
  rw [hu]
  exact (hrun.arm _).trans (askCop_of_accepted hanswer _)

/-- Settles O42: by whether the destination is R15. -/
theorem coprocessorRead : Obligations.CoprocessorRead := by
  unfold Obligations.CoprocessorRead
  intro c opc1 crn rd cp opc2 crm s m first more rest hrun hanswer
  have hexec := exec_mrc hrun hanswer rfl
  have hisz : s.isz = 4#32 := hrun.isz_eq
  rw [← State.copAsk_of_cons hanswer]
  by_cases hrd : rd = Reg.pc
  · subst hrd
    refine ⟨_, hexec.trans (if_pos rfl), ?_, fun h => absurd rfl h, fun p hp => absurd rfl (phys_ne_pc hp),
      fun _ => setNZCV_flagsBecome _ _ _ _ _, ?_⟩
    · rw [State.advance_pc, isz_setCpsr_mrcFlags, State.isz_copAsk, hisz]
      rfl
    · rw [phys_pc]
      exact { Keeps.refl _ with }
  · rw [if_neg hrd, ← State.writeDest_of_ne m first hrd] at hexec
    exact ⟨_, hexec, (State.writeDest_pc_eq rd first).trans ((if_neg hrd).trans (congrArg (s.pc + ·) hisz)),
      fun _ => State.writeDest_cpsr _ _ _ _, fun p hp => State.getPhys_writeDest first hp, fun h => absurd h hrd,
      Keeps.writeDest rd first⟩

/-! ### LDC and STC (R245, R246) -/

/-- The offset counts words (R245). -/
theorem copAddress_eq (m : Mode) (p u w : Bool) (rn : Reg) (offset8 : BitVec 8) (s : State) :
    copAddress m p u w rn offset8 s = indexedAddress p u w rn (s.x m rn) (BitVec.ofNat 32 (4 * offset8.toNat)) := by
  have hnumber : (offset8.setWidth 32).toNat * 2 ^ 2 = 4 * offset8.toNat := by
    have hwide : (offset8.setWidth 32).toNat = offset8.toNat := BitVec.toNat_setWidth_of_le (by decide)
    omega
  exact congrArg (indexedAddress p u w rn (s.x m rn)) ((shiftLeft_eq_ofNat _ 2).trans (congrArg (BitVec.ofNat 32) hnumber))

section
variable {c : Cond} {p u n w : Bool} {rn : Reg} {crd cp : BitVec 4} {offset8 : BitVec 8} {ad : Address}
  (had : ad = indexedAddress p u w rn (s.x m rn) (BitVec.ofNat 32 (4 * offset8.toNat)))
  (hanswer : s.copAnswers = .accepted first more :: rest)
include had hanswer

/-- LDC that a coprocessor accepts goes on with the transfer, and its write-back is not to R15. -/
theorem exec_ldc (hrun : Runs (.ldc c p u n w rn crd cp offset8) s m)
    (hoperands : unpredictableOperands m (.ldc c p u n w rn crd cp offset8) = false) :
    ad.Safe ∧ exec (.ldc c p u n w rn crd cp offset8) s = loadCop m ad (more.length + 1) (s.copAsk (.load cp crd n)) := by
  have hclash : ¬ copClash p w rn = true := ne_true_of_eq_false hoperands
  rw [had, ← copAddress_eq]
  exact ⟨copAddress_safe hclash, ((hrun.arm _).trans (if_neg hclash)).trans (askCop_of_accepted hanswer _)⟩

/-- STC that a coprocessor accepts goes on with the transfer, and its write-back is not to R15. -/
theorem exec_stc (hrun : Runs (.stc c p u n w rn crd cp offset8) s m)
    (hoperands : unpredictableOperands m (.stc c p u n w rn crd cp offset8) = false) :
    ad.Safe ∧ exec (.stc c p u n w rn crd cp offset8) s = storeCop m ad (first :: more) (s.copAsk (.store cp crd n)) := by
  have hclash : ¬ copClash p w rn = true := ne_true_of_eq_false hoperands
  rw [had, ← copAddress_eq]
  exact ⟨copAddress_safe hclash, ((hrun.arm _).trans (if_neg hclash)).trans (askCop_of_accepted hanswer _)⟩

end

/-! ### The words that LDC reads (R245) -/

section
variable {ad : Address} {n : Nat}

/-- Requests that are all answered give as many words, those of storage byte by byte (R63). -/
theorem State.readCopWords_all (h : ∀ k, k < n → s.answers false (copWordAddress ad k) = true) :
    ∃ ws, s.readWords (wordAddresses ad.address n) = (ws, false) ∧ ws.length = n ∧
      ∀ k, k < n → s.isDevice (copWordAddress ad k) = false → ∀ j, j < 4 →
        (ws.getD k 0#32).extractLsb' (8 * j) 8 = s.mem.read ((copWordAddress ad k).toNat + j) := by
  have haddress : ∀ k, k < n → (wordAddresses ad.address n).getD k 0#32 = copWordAddress ad k :=
    fun k hk => wordAddresses_getD ad.address n k hk
  obtain ⟨ws, hread, hlen, hwords⟩ := s.readWords_all (wordAddresses ad.address n) fun k hk => by
    rw [wordAddresses_length] at hk
    rw [haddress k hk, h k hk]
  rw [wordAddresses_length] at hlen hwords
  refine ⟨ws, hread, hlen, fun k hk hdevice j hj => ?_⟩
  have hword := hwords k hk
  rw [haddress k hk] at hword
  rw [hword hdevice]
  exact Memory.readWord_aligned_byte s.mem _ (wordAddress_mod ad.address k) j hj

theorem State.readCopWords_fault {f : Nat} (hf : f < n) (h : ∀ k, k < f → s.answers false (copWordAddress ad k) = true)
    (hfault : s.answers false (copWordAddress ad f) = false) :
    ∃ ws, s.readWords (wordAddresses ad.address n) = (ws, true) := by
  have haddress : ∀ k, k ≤ f → (wordAddresses ad.address n).getD k 0#32 = copWordAddress ad k :=
    fun k hk => wordAddresses_getD ad.address n k (Nat.lt_of_le_of_lt hk hf)
  obtain ⟨ws, hread, -, -⟩ := s.readWords_fault f (wordAddresses ad.address n) (by rwa [wordAddresses_length])
    (fun k hk => by rw [haddress k (Nat.le_of_lt hk), h k hk]) (by rw [haddress f (Nat.le_refl f), hfault])
  exact ⟨ws, hread⟩

theorem loadCop_of_words {ws : List Word} (h : s.readWords (wordAddresses ad.address n) = (ws, false)) :
    loadCop m ad n s = .next ((s.applyWriteBack m ad).copTell (.loadData ws)).advance := by
  rw [loadCop, h]
  rfl

theorem loadCop_of_fault {ws : List Word} (h : s.readWords (wordAddresses ad.address n) = (ws, true)) :
    loadCop m ad n s = .next ((s.applyWriteBack m ad).raise .dataAbort s.pc) := by
  rw [loadCop, h]
  rfl

end

/-- A request recorded at both ends of a frame. -/
theorem Keeps.copTell {s t : State} {written : List PhysReg} {stored : List Nat} (h : Keeps written stored s t)
    (q : CopRequest) : Keeps written stored (s.copTell q) (t.copTell q) :=
  { h with copRequests := congrArg (q :: ·) h.copRequests }

/-- Settles O43: the words read, the write-back, then phase 2. -/
theorem coprocessorLoad : Obligations.CoprocessorLoad := by
  unfold Obligations.CoprocessorLoad
  intro c p u n w rn crd cp offset8 s m first more rest i ad hrun hoperands hanswer hanswers
  obtain ⟨hsafe, hexec⟩ := exec_ldc (ad := ad) rfl hanswer hrun hoperands
  obtain ⟨ws, hread, hlen, hwords⟩ := State.readCopWords_all (s := s.copAsk (.load cp crd n)) hanswers
  rw [loadCop_of_words hread] at hexec
  obtain ⟨hbase, -, -⟩ := State.applyWriteBack_spec m hsafe (s.copAsk (.load cp crd n))
  have hbody : Body s ((s.copAsk (.load cp crd n)).applyWriteBack m ad) :=
    (Body.copAsk s _).trans (Body.applyWriteBack hsafe)
  have hkeeps := ((Keeps.applyWriteBack (s := s.copAsk (.load cp crd n)) (m := m) hsafe).copTell (.loadData ws)).advance
  rw [State.copAsk_of_cons hanswer] at hkeeps hexec hbase hbody
  refine ⟨_, ws, hexec, hlen, hwords, hbase, hbody.cpsr, ?_, hkeeps⟩
  rw [State.advance_pc, State.copTell_pc, State.isz_copTell, hbody.pc, hbody.isz, hrun.isz_eq]
  rfl

/-! ### The words that STC writes (R246) -/

/-- What the first `n` write requests of STC with `words` and its write-back leave. -/
structure CopStored (m : Mode) (ad : Address) (words : List Word) (n : Nat) (s t : State) : Prop where
  bytes : ∀ k, k < n → s.isDevice (copWordAddress ad k) = false →
    ∀ j, j < 4 → t.mem.read ((copWordAddress ad k).toNat + j) = (words.getD k 0#32).extractLsb' (8 * j) 8
  base  : ad.WrittenBack m t
  body  : Body s t
  keeps : Keeps (ad.written m) (s.storedCells n (copWordAddress ad))
    { s with deviceWrites := s.recordedWords n (copWordAddress ad) (words.getD · 0#32) } t

/-- STC up to its n-th request, if there is one the first that answers Fault. -/
theorem storeCop_stored {ad : Address} (hsafe : ad.Safe) (hwf : s.mem.wf = true) {words : List Word} {n : Nat}
    (hfew : words.length ≤ 2 ^ 30) (hn : n ≤ words.length)
    (haccepts : ∀ k, k < n → s.accepts (copWordAddress ad k) = true)
    (hfault : n < words.length → s.accepts (copWordAddress ad n) = false) :
    ∃ t, CopStored m ad words n s t ∧
      storeCop m ad words s = .next (if n < words.length then t.raise .dataAbort s.pc else t.advance) := by
  obtain ⟨u, hwrite, hu, hwfu, hwords, hrest⟩ := s.writeWords_ascending hwf ad.address n words hfew hn (copWordAddress ad)
    (fun _ => rfl) haccepts hfault
  have hkeeps : Keeps [] (s.storedCells n (copWordAddress ad))
      { s with deviceWrites := s.recordedWords n (copWordAddress ad) (words.getD · 0#32) } u := by
    rw [hu]
    exact { Keeps.refl { s with deviceWrites := s.recordedWords n (copWordAddress ad) (words.getD · 0#32) } with mem := hrest }
  have hbody : Body s u := Body.of_onlyMem ⟨by rw [hu], fun _ => hwfu⟩
  obtain ⟨hbase, -, -⟩ := State.applyWriteBack_spec m hsafe u
  have hback : Keeps (ad.written m) [] u (u.applyWriteBack m ad) := Keeps.applyWriteBack hsafe
  refine ⟨u.applyWriteBack m ad, ⟨fun k hk hdevice j hj => ?_, hbase, hbody.trans (Body.applyWriteBack hsafe), ?_⟩, ?_⟩
  · exact (hback.mem _ List.not_mem_nil).trans (hwords k hk hdevice j hj)
  · have hchain := hkeeps.trans hback
    rwa [List.append_nil] at hchain
  · simp only [storeCop, hwrite, decide_eq_true_eq]

/-- Settles O44: all requests complete. -/
theorem coprocessorStore : Obligations.CoprocessorStore := by
  unfold Obligations.CoprocessorStore
  intro c p u n w rn crd cp offset8 s m first more rest i ad hrun hoperands hanswer hfew haccepts
  obtain ⟨hsafe, hexec⟩ := exec_stc (ad := ad) rfl hanswer hrun hoperands
  have hlast : ¬ (first :: more).length < (first :: more).length := Nat.lt_irrefl _
  obtain ⟨t, ht, hstore⟩ := storeCop_stored (s := s.copAsk (.store cp crd n)) (m := m) hsafe hrun.inv.mem
    (words := first :: more) hfew (Nat.le_refl _) haccepts fun h => absurd h hlast
  rw [hstore, if_neg hlast] at hexec
  have hbody : Body s t := (Body.copAsk s _).trans ht.body
  have hkeeps := ht.keeps.advance
  rw [State.copAsk_of_cons hanswer] at hkeeps
  refine ⟨_, hexec, ht.bytes, ht.base, hbody.cpsr, ?_, hkeeps⟩
  rw [State.advance_pc, hbody.pc, hbody.isz, hrun.isz_eq]
  rfl

/-! ### A request that answers Fault (R210) -/

/-- Settles O45: LDC keeps none of its words, STC those before the fault; the entry follows the write-back. -/
theorem coprocessorTransferAborts : Obligations.CoprocessorTransferAborts := by
  unfold Obligations.CoprocessorTransferAborts
  intro load c p u n w rn crd cp offset8 s m first more rest f i q ad hrun hoperands hanswer hfew hf hcompletes hfault
  cases load with
  | true =>
    obtain ⟨hsafe, hexec⟩ := exec_ldc (ad := ad) rfl hanswer hrun hoperands
    obtain ⟨ws, hread⟩ := State.readCopWords_fault (s := s.copAsk (.load cp crd n)) hf hcompletes hfault
    rw [loadCop_of_fault hread] at hexec
    obtain ⟨v, t, hnext, hbase, hpc, hcpsr, hkeeps, hentry⟩ := dataAbort_after_writeBack hsafe hexec
    rw [State.copAsk_of_cons hanswer] at hkeeps
    exact ⟨v, t, hnext, nofun, hbase, hcpsr, hpc, hkeeps, hentry⟩
  | false =>
    obtain ⟨hsafe, hexec⟩ := exec_stc (ad := ad) rfl hanswer hrun hoperands
    obtain ⟨v, hv, hstore⟩ := storeCop_stored (s := s.copAsk (.store cp crd n)) (m := m) hsafe hrun.inv.mem
      (words := first :: more) hfew (Nat.le_of_lt hf) hcompletes fun _ => hfault
    rw [hstore, if_pos (show f < (first :: more).length from hf)] at hexec
    have hbody : Body s v := (Body.copAsk s _).trans hv.body
    have hkeeps := hv.keeps
    rw [State.copAsk_of_cons hanswer] at hkeeps
    exact ⟨v, _, hexec, fun _ => hv.bytes, hv.base, hbody.cpsr, hbody.pc, hkeeps, entered_raise .dataAbort v s.pc⟩

end Sys2Proof.Machine
end

section
/-! PROOFS. The family of `47_thumb.md`. A computation of THUMB state ends as its row of the table says
(`exec_dataDone`), in an instruction of two bytes. A branch target is one exact sum modulo 2^32 (`add_signExtend_shiftLeft`),
and pc is even, so BranchWritePC drops nothing of it. -/
namespace Sys2Proof.Machine

variable {i : Instr} {s : State} {m : Mode}

/-! ### Computations (R252 to R256, R263, R264) -/

/-- Settles O15: the ending of the computation, in an instruction of two bytes. -/
theorem dataProcessingThumb : Obligations.DataProcessingThumb := by
  unfold Obligations.DataProcessingThumb
  intro i s m d hrun hthumb hd hok hdest
  have hdone := exec_dataDone hrun hd hok hdest
  rwa [Instr.size, hthumb] at hdone

/-! ### Branches (R267, R269) -/

theorem Runs.pc_even (hrun : Runs i s m) (hthumb : i.isThumb = true) : s.pc.toNat % 2 = 0 := by
  have hpc := hrun.pc_mod
  rwa [if_pos hthumb] at hpc

theorem halfAligned_of_mod {a : Word} (ha : a.toNat % 2 = 0) : a &&& 0xFFFFFFFE#32 = a :=
  BitVec.eq_of_toNat_eq ((halfAligned_toNat a).trans (by omega))

/-- In THUMB state BranchWritePC keeps all of a halfword address (R135). -/
theorem State.branchWritePC_of_half {v : Word} (hT : psrT s.cpsr = true) (hv : v.toNat % 2 = 0) :
    s.branchWritePC v = { s with pc := v } := by
  rw [State.branchWritePC, if_pos hT, halfAligned_of_mod hv]
  rfl

theorem thumbTarget_eq_ofInt {w : Nat} (offset : BitVec w) (s : State) :
    s.pc + 4#32 + offset.signExtend 32 <<< 1 = BitVec.ofInt 32 (s.pc.toNat + 4 + 2 * offset.toInt) :=
  add_signExtend_shiftLeft s.pc 4#32 offset 1

theorem Runs.branchWritePC_thumbTarget (hrun : Runs i s m) (hthumb : i.isThumb = true) {w : Nat} (offset : BitVec w) :
    s.branchWritePC (s.pc + 4#32 + offset.signExtend 32 <<< 1) =
      { s with pc := BitVec.ofInt 32 (s.pc.toNat + 4 + 2 * offset.toInt) } := by
  have hpc := hrun.pc_even hthumb
  rw [thumbTarget_eq_ofInt]
  refine State.branchWritePC_of_half (hrun.state.trans hthumb) ?_
  rw [BitVec.toNat_ofInt]
  omega

/-- The branches of format 16 are one meaning, at their condition and offset. -/
theorem thumbBranch_eq_branchIf {c : Cond} {soffset8 : BitVec 8} (hi : thumbBranch? i = some (c, soffset8)) :
    i.isThumb = true ∧ ∀ s, exec i s = branchIf c soffset8 s := by
  cases i with
  | tBeq | tBne | tBcs | tBcc | tBmi | tBpl | tBvs | tBvc | tBhi | tBls | tBge | tBlt | tBgt | tBle =>
    cases hi; exact ⟨rfl, fun _ => rfl⟩
  | _ => cases hi

theorem State.advance_thumb (hT : psrT s.cpsr = true) : s.advance = { s with pc := s.pc + 2#32 } := by
  rw [State.advance, State.isz, if_pos hT]
  rfl

/-- Settles O33: the target where the condition passes, and for B always. -/
theorem thumbBranch : Obligations.ThumbBranch := by
  unfold Obligations.ThumbBranch
  refine ⟨fun i c soffset8 s m hrun hi => ?_, fun offset11 s m hrun => ?_⟩
  · obtain ⟨hthumb, hexec⟩ := thumbBranch_eq_branchIf hi
    rw [hexec, branchIf, hrun.thumb, hrun.branchWritePC_thumbTarget hthumb, State.advance_thumb (hrun.state.trans hthumb)]
    split <;> rfl
  · rw [← hrun.branchWritePC_thumbTarget rfl]
    exact hrun.thumb _

/-! ### The long branch (R270) -/

/-- Setting bit 0 of an even word adds 1 to it. -/
theorem or_one_of_even {v : Word} (hv : v.toNat % 2 = 0) : v ||| 1#32 = v + 1#32 := by
  have hdisjoint : v &&& 1#32 = 0#32 := by
    apply BitVec.eq_of_toNat_eq
    rw [BitVec.toNat_and]
    exact (Nat.and_one_is_mod _).trans hv
  exact (BitVec.add_eq_or_of_and_eq_zero v 1#32 hdisjoint).symm

/-- R14 after the second half: the address after it, with bit 0 set. -/
theorem Runs.longBranchLink (hrun : Runs i s m) (hthumb : i.isThumb = true) : (s.pc + 2#32) ||| 1#32 = s.pc + 3#32 := by
  have hpc := hrun.pc_even hthumb
  have hnext : (s.pc + 2#32).toNat = (s.pc.toNat + 2) % 2 ^ 32 := BitVec.toNat_add _ _
  have heven : (s.pc + 2#32).toNat % 2 = 0 := by omega
  rw [or_one_of_even heven, BitVec.add_assoc]
  rfl

theorem add_setWidth_shiftLeft_one (base : Word) (offset11 : BitVec 11) :
    base + offset11.setWidth 32 <<< 1 = BitVec.ofNat 32 (base.toNat + 2 * offset11.toNat) := by
  have hoffset : (offset11.setWidth 32).toNat = offset11.toNat := BitVec.toNat_setWidth_of_le (by decide)
  rw [shiftLeft_eq_ofNat, hoffset, BitVec.ofNat_add, BitVec.ofNat_toNat, BitVec.setWidth_eq, Nat.mul_comm]
  rfl

/-- Settles O34: each half writes R14 and then pc. -/
theorem thumbLongBranch : Obligations.ThumbLongBranch := by
  unfold Obligations.ThumbLongBranch
  intro offset11 s m p hp
  have hwrite : ∀ v, s.writeReg m Reg.lr v = s.setPhys p v := fun v => State.writeReg_some v hp
  have hlink : ∀ v, (s.setPhys p v).getPhys p = v := fun v => (s.getPhys_setPhys p p v).trans (if_pos rfl)
  refine ⟨fun hrun => ?_, fun hrun => ?_⟩
  · have hexec : exec (.tBlFirst offset11) s =
        .next (s.writeReg m Reg.lr (s.pc + 4#32 + offset11.signExtend 32 <<< 12)).advance := hrun.thumb _
    rw [hwrite, add_signExtend_shiftLeft] at hexec
    refine ⟨_, hexec, hlink _, ?_, rfl, ((Keeps.refl s).setPhys p _).advance⟩
    rw [State.advance_pc, State.isz_setPhys, hrun.isz_eq]
    rfl
  · have hexec : exec (.tBlSecond offset11) s = .next ((s.writeReg m Reg.lr ((s.pc + 2#32) ||| 1#32)).setPc
        ((s.x m Reg.lr + offset11.setWidth 32 <<< 1) &&& 0xFFFFFFFE#32)) := hrun.thumb _
    rw [hwrite, State.x_some hp, add_setWidth_shiftLeft_one, hrun.longBranchLink rfl] at hexec
    exact ⟨_, hexec, rfl, hlink _, rfl, { (Keeps.refl s).setPhys p (s.pc + 3#32) with }⟩

end Sys2Proof.Machine
end

section
/-! PROOFS. The family of `60_exceptions.md`. Every entry is `entered_raise`; what is left of each kind is its return address. -/
namespace Sys2Proof.Machine

variable {s : State}

/-- Settles O46, row by row, then the order of the ranks. -/
theorem exceptionTable : Obligations.ExceptionTable := by
  unfold Obligations.ExceptionTable
  refine ⟨⟨rfl, rfl, rfl⟩, ⟨rfl, rfl, rfl⟩, ⟨rfl, rfl, rfl⟩, ⟨rfl, rfl, rfl⟩, ⟨rfl, rfl, rfl⟩, ⟨rfl, rfl, rfl⟩,
    ⟨rfl, rfl, rfl⟩, ⟨rfl, rfl, rfl⟩, ?_⟩
  decide

/-! ### Return addresses (R306) -/

theorem State.add_isz (s : State) (a : Word) : a + s.isz = if psrT s.cpsr then a + 2#32 else a + 4#32 :=
  apply_ite (a + ·) _ _ _

theorem State.returnAddress_prefetchAbort_arm (hT : psrT s.cpsr = false) (a : Word) :
    s.returnAddress .prefetchAbort a = a + 4#32 :=
  if_neg (ne_true_of_eq_false hT)

theorem State.returnAddress_prefetchAbort_next (hT : psrT s.cpsr = true) (hlr : s.params.pabtThumbLr = .next) (a : Word) :
    s.returnAddress .prefetchAbort a = a + 2#32 := by
  simp only [State.returnAddress, hT, hlr, if_true]

theorem State.returnAddress_prefetchAbort_plus4 (hT : psrT s.cpsr = true) (hlr : s.params.pabtThumbLr = .plus4)
    (a : Word) : s.returnAddress .prefetchAbort a = a + 4#32 := by
  simp only [State.returnAddress, hT, hlr, if_true]

/-- Settles O47: the entry of every kind, at its return address. -/
theorem exceptionEntry : Obligations.ExceptionEntry := by
  unfold Obligations.ExceptionEntry
  intro s a
  rw [← s.add_isz a]
  refine ⟨entered_raise .softwareInterrupt s a, entered_raise .undefinedInstruction s a, fun hT => ?_, fun hT hlr => ?_,
    fun hT hlr => ?_, entered_raise .dataAbort s a, entered_raise .normalInterrupt s a, entered_raise .fastInterrupt s a,
    entered_raise .reset s a, entered_raise .addressExceeds26Bit s a⟩
  · rw [← State.returnAddress_prefetchAbort_arm hT]
    exact entered_raise .prefetchAbort s a
  · rw [← State.returnAddress_prefetchAbort_next hT hlr]
    exact entered_raise .prefetchAbort s a
  · rw [← State.returnAddress_prefetchAbort_plus4 hT hlr]
    exact entered_raise .prefetchAbort s a

end Sys2Proof.Machine
end

section
/-! PROOFS. The family of `70_reset_and_hazards.md`: a warm reset is the Reset entry of the next step. -/
namespace Sys2Proof.Machine

variable {s : State}

theorem step_hostReset (h : s.halted = none) : step s.hostReset = .next s.hostReset.takeReset.tick := by
  rw [step_of_running (s := s.hostReset) h, State.cycle_of_reset rfl]
  rfl

/-- The latch is cleared before the entry, which returns to pc (R310). -/
theorem entered_takeReset (s : State) : Entered .reset s.pc { s with resetPending := false } s.takeReset :=
  entered_raise .reset { s with resetPending := false } s.pc

/-- Settles O58: the Reset entry, after which the tick adds to the cycle counter alone. -/
theorem warmReset : Obligations.WarmReset := by
  unfold Obligations.WarmReset
  refine ⟨fun s v hhalted => step_of_halted hhalted, fun s hrunning => ⟨_, step_hostReset hrunning, ?_⟩⟩
  obtain ⟨hspsr, hdefined, hother, hmode, hirq, hfiq, harm, hupper, hlink, hregs, hpc, -⟩ := entered_takeReset s.hostReset
  exact ⟨hspsr, hdefined, hlink, hmode, hirq, hfiq, harm, hpc.trans (BitVec.add_zero _), rfl, rfl, hregs, hupper,
    hother, rfl, rfl, rfl, rfl, rfl, rfl, rfl, hrunning⟩

end Sys2Proof.Machine
end
